-- ==== Sys2Proof/Word.lean ====
section
/-! DEFINITION. The word types of the block: the byte every register, operand and transfer is made of (00_scope.md R9,
R12) and the 80-bit command word (30_encoding.md R70). Bit 0 is the least significant bit (00_scope.md R10). -/

namespace Sys2Proof

/-- "Every value's width is 8 bits unless the notation shows another" (R12). -/
abbrev Byte := BitVec 8

/-- One command word: exactly 80 bits, presented whole (R70). -/
abbrev CommandWord := BitVec 80

end Sys2Proof
end

