-- ==== Sys2Proof/Syntax.lean ====
section
/-! DEFINITION. The block's operations as syntax: one constructor per row of spec/opcode_table.json (30_encoding.md R72),
with the operands its format names (R71), already taken out of the command word; and the two causes of
`IllegalCommand` (60_exceptions.md R152). -/

namespace Sys2Proof

/-- The glyph of a custom character: eight row bytes, row 0 first (R75, 20_memory.md R56). -/
structure Glyph where
  r0 : Byte
  r1 : Byte
  r2 : Byte
  r3 : Byte
  r4 : Byte
  r5 : Byte
  r6 : Byte
  r7 : Byte
deriving DecidableEq, Repr

/-- The 18 host operations (R72). -/
inductive Instr where
  /-- 0x01, format G; `dots5x10` is the operand `d`: false is 5x8, true is 5x10 (R100) -/
  | begin (columns lines : Byte) (dots5x10 : Bool)
  /-- 0x02, format N (R110) -/
  | clear
  /-- 0x03, format N (R111) -/
  | home
  /-- 0x04, format P (R112) -/
  | setCursor (col row : Byte)
  /-- 0x05, format N (R120) -/
  | displayOn
  /-- 0x06, format N (R121) -/
  | displayOff
  /-- 0x07, format N (R122) -/
  | cursorOn
  /-- 0x08, format N (R123) -/
  | cursorOff
  /-- 0x09, format N (R124) -/
  | blinkOn
  /-- 0x0A, format N (R125) -/
  | blinkOff
  /-- 0x0B, format N (R126) -/
  | scrollLeft
  /-- 0x0C, format N (R127) -/
  | scrollRight
  /-- 0x0D, format N (R130) -/
  | textLtr
  /-- 0x0E, format N (R131) -/
  | textRtl
  /-- 0x0F, format N (R132) -/
  | autoscrollOn
  /-- 0x10, format N (R133) -/
  | autoscrollOff
  /-- 0x11, format C (R140) -/
  | createChar (slot : Byte) (glyph : Glyph)
  /-- 0x12, format B (R142) -/
  | putc (byte : Byte)
deriving DecidableEq, Repr

/-- The causes of `IllegalCommand` (R152). -/
inductive IllegalCause where
  /-- the opcode names no operation -/
  | illegalOpcode
  /-- `BEGIN` with `columns = 0`, `lines = 0` or `lines > 4` -/
  | illegalOperand
deriving DecidableEq, Repr

end Sys2Proof
end

