-- ==== Sys2Proof/WellFormed.lean ====
section
/-! DEFINITION. The operand ranges of the operations (30_encoding.md R72, R74): only `BEGIN` has operand values that are
illegal; every other operand may take every value of its width. -/

namespace Sys2Proof

/-- "`columns` (positive integer), `lines` (1–4)" (41_begin.md R108). -/
def beginRangesHold (columns lines : Byte) : Bool :=
  decide (1 ≤ columns.toNat) && decide (1 ≤ lines.toNat) && decide (lines.toNat ≤ 4)

/-- An operation whose operands the spec admits. -/
def Instr.wellFormed : Instr → Bool
  | .begin columns lines _ => beginRangesHold columns lines
  | .clear => true
  | .home => true
  | .setCursor _ _ => true
  | .displayOn => true
  | .displayOff => true
  | .cursorOn => true
  | .cursorOff => true
  | .blinkOn => true
  | .blinkOff => true
  | .scrollLeft => true
  | .scrollRight => true
  | .textLtr => true
  | .textRtl => true
  | .autoscrollOn => true
  | .autoscrollOff => true
  | .createChar _ _ => true
  | .putc _ => true

end Sys2Proof
end

