-- ==== Sys2Proof/Decode.lean ====
section
/-! DEFINITION. The decoder (30_encoding.md R73: total, every 80-bit word selects one operation with its operands or
raises `IllegalCommand`), the encoder written from the same tables (R70 to R72; ignored bits are written 0, R71), the
text form of a word (R70), and the host's table-word entry point. -/

namespace Sys2Proof

/-- Bits 79:72 (R70). -/
def fieldOpcode (w : CommandWord) : Byte := w.extractLsb' 72 8

/-- Bits 71:64, the operand `a` (R70). -/
def fieldA (w : CommandWord) : Byte := w.extractLsb' 64 8

/-- Bits 63:0, the operand field `g` (R70). -/
def fieldG (w : CommandWord) : BitVec 64 := w.extractLsb' 0 64

/-- `g[7:0]`, the operand `b` of formats P and G (R71). -/
def fieldB (w : CommandWord) : Byte := (fieldG w).extractLsb' 0 8

/-- `g[8]`, the operand `d` of format G (R71). -/
def fieldD (w : CommandWord) : Bool := (fieldG w).getLsbD 8

/-- Format C: glyph row `r` is `g[8r+7:8r]` (R71). -/
def glyphOfField (g : BitVec 64) : Glyph where
  r0 := g.extractLsb' 0 8
  r1 := g.extractLsb' 8 8
  r2 := g.extractLsb' 16 8
  r3 := g.extractLsb' 24 8
  r4 := g.extractLsb' 32 8
  r5 := g.extractLsb' 40 8
  r6 := g.extractLsb' 48 8
  r7 := g.extractLsb' 56 8

/-- What decoding a word gives (R73). -/
inductive Decoded where
  | op (i : Instr)
  | illegal (cause : IllegalCause)
deriving DecidableEq, Repr

/-- The operand check of `BEGIN`: `a = 0 or b = 0 or b > 4` (R73, 41_begin.md R108). -/
def illegalBegin (a b : Byte) : Bool := a == 0 || b == 0 || decide (4 < b.toNat)

/-- R73. The opcode alone selects the operation; the operands are checked after it. Decoding reads no state. -/
def decode (w : CommandWord) : Decoded :=
  match (fieldOpcode w).toNat with
  | 0x01 =>
    if illegalBegin (fieldA w) (fieldB w) then .illegal .illegalOperand
    else .op (.begin (fieldA w) (fieldB w) (fieldD w))
  | 0x02 => .op .clear
  | 0x03 => .op .home
  | 0x04 => .op (.setCursor (fieldA w) (fieldB w))
  | 0x05 => .op .displayOn
  | 0x06 => .op .displayOff
  | 0x07 => .op .cursorOn
  | 0x08 => .op .cursorOff
  | 0x09 => .op .blinkOn
  | 0x0A => .op .blinkOff
  | 0x0B => .op .scrollLeft
  | 0x0C => .op .scrollRight
  | 0x0D => .op .textLtr
  | 0x0E => .op .textRtl
  | 0x0F => .op .autoscrollOn
  | 0x10 => .op .autoscrollOff
  | 0x11 => .op (.createChar (fieldA w) (glyphOfField (fieldG w)))
  | 0x12 => .op (.putc (fieldA w))
  | _ => .illegal .illegalOpcode

/-- The opcode column of R72. -/
def Instr.opcode : Instr → Byte
  | .begin _ _ _ => 0x01
  | .clear => 0x02
  | .home => 0x03
  | .setCursor _ _ => 0x04
  | .displayOn => 0x05
  | .displayOff => 0x06
  | .cursorOn => 0x07
  | .cursorOff => 0x08
  | .blinkOn => 0x09
  | .blinkOff => 0x0A
  | .scrollLeft => 0x0B
  | .scrollRight => 0x0C
  | .textLtr => 0x0D
  | .textRtl => 0x0E
  | .autoscrollOn => 0x0F
  | .autoscrollOff => 0x10
  | .createChar _ _ => 0x11
  | .putc _ => 0x12

/-- The field `a` an operation is written with; 0 where its format ignores it (R71). -/
def Instr.operandA : Instr → Byte
  | .begin columns _ _ => columns
  | .setCursor col _ => col
  | .createChar slot _ => slot
  | .putc byte => byte
  | .clear | .home | .displayOn | .displayOff | .cursorOn | .cursorOff | .blinkOn | .blinkOff => 0
  | .scrollLeft | .scrollRight | .textLtr | .textRtl | .autoscrollOn | .autoscrollOff => 0

/-- The eight glyph rows as the field `g` of format C, row 0 in the least significant byte (R71). -/
def fieldOfGlyph (g : Glyph) : BitVec 64 :=
  g.r7 ++ g.r6 ++ g.r5 ++ g.r4 ++ g.r3 ++ g.r2 ++ g.r1 ++ g.r0

/-- The field `g` an operation is written with; ignored bits are 0 (R71). -/
def Instr.operandG : Instr → BitVec 64
  | .begin _ lines d => (0 : BitVec 55) ++ BitVec.ofBool d ++ lines
  | .setCursor _ row => (0 : BitVec 56) ++ row
  | .createChar _ glyph => fieldOfGlyph glyph
  | .putc _ => 0
  | .clear | .home | .displayOn | .displayOff | .cursorOn | .cursorOff | .blinkOn | .blinkOff => 0
  | .scrollLeft | .scrollRight | .textLtr | .textRtl | .autoscrollOn | .autoscrollOff => 0

/-- The command word of an operation: `opcode`, `a`, `g` from the most significant end (R70). -/
def encode (i : Instr) : CommandWord := i.opcode ++ i.operandA ++ i.operandG

/-- The bits of an operation's word that its format reads: the opcode, and the operand bits R71 does not mark `x`. -/
def Instr.usedBits : Instr → CommandWord
  | .begin _ _ _ => 0xFFFF00000000000001FF
  | .setCursor _ _ => 0xFFFF00000000000000FF
  | .createChar _ _ => 0xFFFFFFFFFFFFFFFFFFFF
  | .putc _ => 0xFFFF0000000000000000
  | .clear | .home | .displayOn | .displayOff | .cursorOn | .cursorOff | .blinkOn | .blinkOff => 0xFF000000000000000000
  | .scrollLeft | .scrollRight | .textLtr | .textRtl | .autoscrollOn | .autoscrollOff => 0xFF000000000000000000

/-- The command word that `nbits` table bits `w` stand for: a word is one 80-bit value, so the numbering of the opcode
table is the word's own (R70); bits at and above `nbits` are 0. -/
def wordOfTableBits (nbits w : Nat) : CommandWord := BitVec.ofNat 80 (w % 2 ^ nbits)

/-- The instruction the decoder reads from a word numbered as spec/opcode_table.json numbers it. -/
def decodeTableWord (nbits w : Nat) : Option Instr :=
  match decode (wordOfTableBits nbits w) with
  | .op i => some i
  | .illegal _ => none

end Sys2Proof
end

