-- ==== Sys2Proof/Config.lean ====
section
/-! DEFINITION. What is fixed when the block is built: the construction parameters (00_scope.md R6), the seven timing
constants (R7), the controller byte constants (R8), and the one free value of the model, the time a micro-operation
takes (R14; notes/assumptions/7.md). -/

namespace Sys2Proof

/-- `WIDTH`, the interface width: "fixed at construction, never changes afterward" (R6). -/
inductive Width where
  | fourBit
  | eightBit
deriving DecidableEq, Repr

/-- `N_DATA`: the number of data pins, "either 4 or 8 data pins, matching the selected width" (R6). -/
def Width.nData : Width → Nat
  | .fourBit => 4
  | .eightBit => 8

/-- The timing constants, in time units, each a minimum (R7). `T_POWERON` follows 90_conflicts.md C1. -/
structure Timing where
  tEnSetup : Nat := 1
  tEnHigh : Nat := 1
  tSettle : Nat := 100
  tPowerOn : Nat := 50000
  tHsLong : Nat := 4500
  tHsShort : Nat := 150
  tClearHome : Nat := 2000
deriving DecidableEq, Repr

/-- The controller byte constants with the defaults of R8. PRESUMED by the spec for all but `kClear`, the two handshake
nibbles and the two row bases (notes/assumptions/11.md). -/
structure Codes where
  kClear : Byte := 0x01
  kHome : Byte := 0x02
  kEntryMode : Byte := 0x04
  eLeft : Byte := 0x02
  eShiftInc : Byte := 0x01
  kDisplayCtrl : Byte := 0x08
  dcDisplay : Byte := 0x04
  dcCursor : Byte := 0x02
  dcBlink : Byte := 0x01
  kShift : Byte := 0x10
  shDisplay : Byte := 0x08
  shRight : Byte := 0x04
  kFunction : Byte := 0x20
  fn8Bit : Byte := 0x10
  fn2Line : Byte := 0x08
  fn5x10 : Byte := 0x04
  kSetCgram : Byte := 0x40
  kSetDdram : Byte := 0x80
  probe8Bit : Byte := 0x03
  commit4Bit : Byte := 0x02
  rowBase0 : Byte := 0x00
  rowBase1 : Byte := 0x40
deriving DecidableEq, Repr

/-- The configuration of one block. The type admits no pin count that does not match the width (R151), so with the
default constants there are exactly the four configurations of R6. -/
structure Config where
  width : Width
  hasRw : Bool
  timing : Timing := {}
  codes : Codes := {}
deriving DecidableEq, Repr

/-- The block has the constants of R7 and R8 at their defaults. -/
abbrev Config.Standard (c : Config) : Prop := c.timing = {} ∧ c.codes = {}

/-- The time the `k`-th micro-operation of the model takes beyond its minimum, in time units: "some `d ≥ n`, chosen by
the environment and not by any rule" for a wait, "an unspecified time `≥ 0`" for the others (R14). A FREE VALUE: no
body, so nothing can be proved about it (notes/assumptions/7.md). -/
opaque Config.freeTime : Nat → Nat

/-- Why a block cannot be built (R151). -/
inductive ConfigError where
  /-- no register-select pin: "missing mandatory pin" -/
  | missingRegisterSelect
  /-- no enable pin: "missing mandatory pin" -/
  | missingEnable
  /-- "mismatched pin count vs. interface width" -/
  | dataPinCount
deriving DecidableEq, Repr

end Sys2Proof
end

