-- ==== Sys2Proof/Machine/State.lean ====
section
/-! DEFINITION. The state of the block as plain data: everything 10_state.md R20 lists, the configuration it was built
with, its inputs and the record of its run (R36); the reasons a step can stop; and the state after reset (R33). -/

namespace Sys2Proof.Machine

/-- A pin level (00_scope.md R11). -/
inductive Level where
  | low
  | high
deriving DecidableEq, Repr

/-- A pin output latch: `unknown` until a micro-operation first writes it (10_state.md R30, R33). -/
inductive Latch where
  | unknown
  | holds (level : Level)
deriving DecidableEq, Repr

/-- The control pins a `SetPin` names (00_scope.md R12). -/
inductive Pin where
  | rs
  | rw
  | en
deriving DecidableEq, Repr

/-- The two register-select modes of a `Send` (40_pin_primitives.md R92, R93). -/
inductive SendMode where
  | command
  | data
deriving DecidableEq, Repr

/-- The state registers a `WriteCsr` names: exactly the registers operations write (20_memory.md R53). -/
inductive Csr where
  | functionFlags
  | displayControlFlags
  | entryModeFlags
  | lineCount
  | rowOffset (row : Fin 4)
deriving DecidableEq, Repr

/-- The four micro-operations, the atomic steps of the block (00_scope.md R13). `drive n v` puts bits `n-1:0` of `v` on
the data pins. -/
inductive MicroOp where
  | setPin (pin : Pin) (level : Level)
  | drive (n : Nat) (value : Byte)
  | wait (n : Nat)
  | writeCsr (reg : Csr) (value : Byte)
deriving DecidableEq, Repr

/-- One entry of the trace (00_scope.md R13). `cutWait n d` is a `Wait(n)` that a reset cut short after `d` time units
(70_reset_and_hazards.md R171; notes/assumptions/8.md). -/
inductive TraceEvent where
  | setPin (pin : Pin) (level : Level)
  | drive (n : Nat) (value : Byte)
  | wait (n : Nat)
  | cutWait (n d : Nat)
deriving DecidableEq, Repr

/-- `ROW_OFFSET[0..3]` (10_state.md R26). -/
structure RowTable where
  row0 : Byte
  row1 : Byte
  row2 : Byte
  row3 : Byte
deriving DecidableEq, Repr

/-- The registers that operations read and write (10_state.md R22 to R24, R26, R27). -/
structure Regs where
  functionFlags : Byte
  displayControlFlags : Byte
  entryModeFlags : Byte
  rowOffset : RowTable
  lineCount : Byte
deriving DecidableEq, Repr

/-- The fault record: `STATUS.FAULT`, `FAULT_CAUSE`, `FAULT_OPCODE` (10_state.md R28). -/
structure FaultRecord where
  fault : Bool
  cause : Byte
  opcode : Byte
deriving DecidableEq, Repr

/-- The pin output latches (10_state.md R30). `rw` is `none` when the block has no read/write pin; `db` has one latch per
data pin, `DB[0]` first. -/
structure Pins where
  rs : Latch
  rw : Option Latch
  en : Latch
  db : List Latch
deriving DecidableEq, Repr

/-- What the host does to `rst` before a step (10_state.md R32, 70_reset_and_hazards.md R170, R171). -/
inductive ResetInput where
  /-- nothing -/
  | quiet
  /-- `rst` is asserted; `some d`: inside the `Wait` in progress, after `d` time units of it -/
  | assert (intoWait : Option Nat)
  /-- `rst` is released -/
  | release
deriving DecidableEq, Repr

/-- The state: the block's own state (R20: `regs`, `fault`, `pins`, `pending`), its configuration, its inputs (`rst`,
`words`, `resetScript`) and the record of the run (`trace`, `endedTraces`, `elapsed`, `draws`; R36). -/
structure State where
  cfg : Config
  regs : Regs
  fault : FaultRecord
  pins : Pins
  pending : List MicroOp
  rst : Bool
  words : List CommandWord
  resetScript : List ResetInput
  trace : List TraceEvent
  endedTraces : List (List TraceEvent)
  elapsed : Nat
  draws : Nat
deriving DecidableEq, Repr

/-- Reasons to stop. The block has no run-time fault that stops it: `IllegalCommand` is recorded and the block goes on
(60_exceptions.md R152). -/
inductive Fault where
  /-- Raised by `State.construct` alone, when the block cannot be built; never by a step. Safe: the block then does not
  exist (R151). -/
  | configError (error : ConfigError)
deriving DecidableEq, Repr

/-- Reasons to give no meaning. -/
inductive Refusal where
  /-- An instruction without a meaning, rejected in its arm of `exec`. No arm of this model raises it. Safe. -/
  | notModelled (mnemonic : String)
deriving DecidableEq, Repr

/-- The registers after reset (10_state.md R33); the row table is `[0x00, 0x40, 0x00, 0x40]` with the row bases of R8. -/
def Regs.afterReset (c : Config) : Regs where
  functionFlags := match c.width with
    | .eightBit => c.codes.fn8Bit
    | .fourBit => 0x00
  displayControlFlags := 0x00
  entryModeFlags := 0x00
  rowOffset := ⟨c.codes.rowBase0, c.codes.rowBase1, 0x00, c.codes.rowBase1⟩
  lineCount := 0x01

/-- The fault record after reset (R33). -/
def FaultRecord.afterReset : FaultRecord := ⟨false, 0x00, 0x00⟩

/-- The latches after reset: all `unknown`; no `RW` latch when `HAS_RW` is false (R30, R33). -/
def Pins.afterReset (c : Config) : Pins where
  rs := .unknown
  rw := if c.hasRw then some .unknown else none
  en := .unknown
  db := List.replicate c.width.nData .unknown

/-- A block of configuration `c` right after reset: idle, `rst` low, nothing offered, nothing recorded (R33, R170). -/
def State.resetOf (c : Config) : State where
  cfg := c
  regs := Regs.afterReset c
  fault := FaultRecord.afterReset
  pins := Pins.afterReset c
  pending := []
  rst := false
  words := []
  resetScript := []
  trace := []
  endedTraces := []
  elapsed := 0
  draws := 0

/-- The machine right after reset, for the configuration of the source's own end-to-end example (S7: four data pins and
three control pins). DESIGN CHOICE of the configuration: notes/assumptions/1.md. -/
def State.reset : State := State.resetOf { width := .fourBit, hasRw := true }

end Sys2Proof.Machine
end

