-- ==== Sys2Proof/Machine/Flags.lean ====
section
/-! DEFINITION. Flag computations: setting and clearing one flag (20_memory.md R68 g), the function flags of `BEGIN`
(41_begin.md R100 step 1), and the two status registers that are computed and not stored (10_state.md R28). -/

namespace Sys2Proof.Machine

/-- "Setting a flag is `f | m`" (R68 g). -/
def setFlag (f m : Byte) : Byte := f ||| m

/-- "clearing is `f & ~m`" (R68 g). -/
def clearFlag (f m : Byte) : Byte := f &&& ~~~m

/-- The flag `m` when `b` holds, else no flag. -/
def flagWhen (b : Bool) (m : Byte) : Byte := if b then m else 0

/-- The `DL` flag: hardwired to the configuration (10_state.md R22). -/
def interfaceFlag (c : Config) : Byte := flagWhen (c.width == .eightBit) c.codes.fn8Bit

/-- `FUNCTION_FLAGS` as `BEGIN` computes it afresh: the 2-line flag if `lines > 1`, the 5x10 flag only if it is asked for
and `lines = 1` (R100 step 1, R103). -/
def functionFlagsFor (c : Config) (lines : Byte) (dots5x10 : Bool) : Byte :=
  interfaceFlag c ||| flagWhen (decide (1 < lines.toNat)) c.codes.fn2Line
    ||| flagWhen (dots5x10 && lines == 1) c.codes.fn5x10

/-- `STATUS`: bit 0 `BUSY`, bit 1 `FAULT`, the rest 0 (R28). -/
def statusByte (busy fault : Bool) : Byte := flagWhen busy 0x01 ||| flagWhen fault 0x02

/-- `CONFIG`: bit 0 `EIGHT_BIT`, bit 1 `HAS_RW`, the rest 0 (R28). -/
def configByte (c : Config) : Byte := flagWhen (c.width == .eightBit) 0x01 ||| flagWhen c.hasRw 0x02

end Sys2Proof.Machine
end

