-- ==== Sys2Proof/Machine/Operands.lean ====
section
/-! DEFINITION. Operand forms: the row clamp and the DDRAM address of `SET_CURSOR` (42_cursor_commands.md R112), the CGRAM
address of `CREATE_CHAR` (45_data_commands.md R140), the glyph rows in sending order (20_memory.md R56), the nibbles of a
byte (R55), and the row table's entries (10_state.md R26). -/

namespace Sys2Proof.Machine

/-- `ROW_OFFSET[r]`. -/
def RowTable.entry (t : RowTable) (r : Fin 4) : Byte :=
  match r with
  | 0 => t.row0
  | 1 => t.row1
  | 2 => t.row2
  | 3 => t.row3

/-- `ROW_OFFSET[r] <- v`. -/
def RowTable.setEntry (t : RowTable) (r : Fin 4) (v : Byte) : RowTable :=
  match r with
  | 0 => { t with row0 := v }
  | 1 => { t with row1 := v }
  | 2 => { t with row2 := v }
  | 3 => { t with row3 := v }

/-- `min(row, 3, LINE_COUNT - 1)` (R112). The subtraction never goes below 0 in a reachable state (20_memory.md R68 e;
notes/assumptions/10.md). -/
def clampedRow (row lineCount : Byte) : Fin 4 :=
  ⟨min row.toNat (min 3 (lineCount.toNat - 1)), by omega⟩

/-- `(ROW_OFFSET[r] + col) mod 256` with the clamped row (R112, 20_memory.md R62). -/
def ddramAddress (r : Regs) (col row : Byte) : Byte :=
  r.rowOffset.entry (clampedRow row r.lineCount) + col

/-- `(slot & 0x07) << 3` (20_memory.md R52). -/
def cgramAddress (slot : Byte) : Byte := (slot &&& 0x07) <<< 3

/-- The glyph's rows in sending order, row 0 first (R56). -/
def glyphRows (g : Glyph) : List Byte := [g.r0, g.r1, g.r2, g.r3, g.r4, g.r5, g.r6, g.r7]

/-- Bits 7:4 of a byte, in bits 3:0 (R55, R68 b). -/
def highNibble (v : Byte) : Byte := v >>> 4

/-- The bits of `v` that a transfer of arity `n` carries: `v[n-1:0]` (R54). -/
def lowBits (n : Nat) (v : Byte) : Byte := (v.setWidth n).setWidth 8

end Sys2Proof.Machine
end

