-- ==== Sys2Proof/Machine/Ops.lean ====
section
/-! DEFINITION. The named operations every meaning is made of: performing a micro-operation (10_state.md R35), the bit
writer and the register transfer primitive (40_pin_primitives.md R90, R92), accepting an operation (R35), recording
`IllegalCommand` (60_exceptions.md R152), and reset (70_reset_and_hazards.md R170, R171). There is no return from a
fault: only reset clears the record (R158). -/

namespace Sys2Proof.Machine

/-! ### Micro-operations -/

/-- "Bit value 1 maps to `HIGH` and 0 to `LOW`" (00_scope.md R11). -/
def Level.ofBool : Bool → Level
  | true => .high
  | false => .low

/-- `csr[NAME] <- v`. -/
def Regs.write (r : Regs) (c : Csr) (v : Byte) : Regs :=
  match c with
  | .functionFlags => { r with functionFlags := v }
  | .displayControlFlags => { r with displayControlFlags := v }
  | .entryModeFlags => { r with entryModeFlags := v }
  | .lineCount => { r with lineCount := v }
  | .rowOffset row => { r with rowOffset := r.rowOffset.setEntry row v }

/-- `pin[P] <- l`. A block without a read/write pin has no `RW` latch to write (10_state.md R30). -/
def Pins.setLevel (p : Pins) (pin : Pin) (l : Level) : Pins :=
  match pin with
  | .rs => { p with rs := .holds l }
  | .rw => { p with rw := p.rw.map fun _ => .holds l }
  | .en => { p with en := .holds l }

/-- `Drive(n, v)`: `DB[i] <- v[i]` for `0 ≤ i < n`, all together (10_state.md R35, 20_memory.md R54). -/
def Pins.driveData (p : Pins) (n : Nat) (v : Byte) : Pins :=
  { p with db := p.db.mapIdx fun i old => if i < n then .holds (Level.ofBool (v.getLsbD i)) else old }

/-- What a micro-operation does to the registers: only `WriteCsr` does anything (00_scope.md R13). -/
def MicroOp.onRegs (op : MicroOp) (r : Regs) : Regs :=
  match op with
  | .writeCsr c v => r.write c v
  | .setPin _ _ => r
  | .drive _ _ => r
  | .wait _ => r

/-- What a micro-operation does to the latches. -/
def MicroOp.onPins (op : MicroOp) (p : Pins) : Pins :=
  match op with
  | .setPin pin l => p.setLevel pin l
  | .drive n v => p.driveData n v
  | .wait _ => p
  | .writeCsr _ _ => p

/-- What a micro-operation adds to the trace: "`WriteCsr` is not a pin event and does not stand in the trace" (R13). -/
def MicroOp.events : MicroOp → List TraceEvent
  | .setPin pin l => [.setPin pin l]
  | .drive n v => [.drive n v]
  | .wait n => [.wait n]
  | .writeCsr _ _ => []

/-- The least time a micro-operation takes: `n` for a `Wait(n)`, 0 for the others (R14). -/
def MicroOp.minTime : MicroOp → Nat
  | .wait n => n
  | .setPin _ _ => 0
  | .drive _ _ => 0
  | .writeCsr _ _ => 0

/-- Perform one micro-operation (R35); it lasts its least time and a free rest (R14). -/
def State.perform (s : State) (op : MicroOp) : State :=
  { s with
    regs := op.onRegs s.regs
    pins := op.onPins s.pins
    trace := s.trace ++ op.events
    elapsed := s.elapsed + op.minTime + Config.freeTime s.draws
    draws := s.draws + 1 }

/-- Perform a list of micro-operations, in order, each complete before the next (20_memory.md R63). -/
def State.performAll (s : State) : List MicroOp → State
  | [] => s
  | op :: rest => (s.perform op).performAll rest

/-- Run the operation in progress to its end: the state at the moment `STATUS.BUSY` falls (R31, R37). -/
def State.complete (s : State) : State := State.performAll { s with pending := [] } s.pending

/-! ### The two pin primitives -/

/-- `WriteBits(v, n)`: drive, then the enable pulse with its three delays (R90). -/
def writeBits (c : Config) (v : Byte) (n : Nat) : List MicroOp :=
  [.drive n (lowBits n v),
   .setPin .en .low, .wait c.timing.tEnSetup,
   .setPin .en .high, .wait c.timing.tEnHigh,
   .setPin .en .low, .wait c.timing.tSettle]

/-- The level of `RS` for a mode (R93). -/
def SendMode.level : SendMode → Level
  | .command => .low
  | .data => .high

/-- `if HAS_RW: pin[RW] <- LOW`. -/
def rwLow (c : Config) : List MicroOp := if c.hasRw then [.setPin .rw .low] else []

/-- The transfers of one byte: one of arity 8, or the high nibble and then the low nibble (R92). -/
def transfers (c : Config) (v : Byte) : List MicroOp :=
  match c.width with
  | .eightBit => writeBits c v 8
  | .fourBit => writeBits c (highNibble v) 4 ++ writeBits c v 4

/-- `Send(v, mode)` (R92). -/
def send (c : Config) (v : Byte) (mode : SendMode) : List MicroOp :=
  [.setPin .rs mode.level] ++ rwLow c ++ transfers c v

/-! ### The command port and acceptance -/

/-- `STATUS.BUSY`: "1 while `pending` is not empty" (10_state.md R28). -/
def State.busy (s : State) : Bool := !s.pending.isEmpty

/-- `cmd_ready`: idle (R31), and low while `rst` is asserted (R170; notes/assumptions/6.md). -/
def State.cmdReady (s : State) : Bool := !s.rst && !s.busy

/-- Accept an operation with micro-operation list `ops`: `pending <- ops` (R35). While the block is not ready an offered word
"waits; it is not queued, not dropped and not looked at" (R31; notes/assumptions/5.md). -/
def State.accept (s : State) (ops : List MicroOp) : State := if s.cmdReady then { s with pending := ops } else s

/-- Accept an operation with micro-operation list `atOnce ++ rest` of which `atOnce` is performed at acceptance: `BEGIN`'s
first register writes, which a register read sees "from the first moment" (41_begin.md R109; notes/assumptions/4.md). -/
def State.acceptAfter (s : State) (atOnce rest : List MicroOp) : State :=
  if s.cmdReady then { s.performAll atOnce with pending := rest } else s

/-! ### The one run-time fault -/

/-- The cause codes of R152. -/
def IllegalCause.code : IllegalCause → Byte
  | .illegalOpcode => 0x01
  | .illegalOperand => 0x02

/-- `raise IllegalCommand(cause, w)`: the first fault since reset is recorded, a later one changes nothing (R152). -/
def State.raiseIllegal (s : State) (cause : IllegalCause) (opcode : Byte) : State :=
  if s.fault.fault then s else { s with fault := ⟨true, IllegalCause.code cause, opcode⟩ }

/-! ### Reset -/

/-- "While it is asserted the block is held in the reset state": every piece of the block's state at its value of R33,
and a new run's record (R170). -/
def State.holdReset (s : State) : State :=
  { s with
    regs := Regs.afterReset s.cfg
    fault := FaultRecord.afterReset
    pins := Pins.afterReset s.cfg
    pending := []
    trace := []
    elapsed := 0 }

/-- What a reset inside a `Wait` adds to the ended run's trace: the cut wait (R171). -/
def State.cutEvents (s : State) (intoWait : Option Nat) : List TraceEvent :=
  match intoWait, s.pending with
  | some d, .wait n :: _ => [.cutWait n d]
  | _, _ => []

/-- `rst` is asserted: the run ends, `pending` is discarded, a `Wait` in progress is cut short (R171). Asserting it again
while it is asserted does nothing. -/
def State.assertReset (s : State) (intoWait : Option Nat) : State :=
  if s.rst then s
  else { s.holdReset with rst := true, endedTraces := s.endedTraces ++ [s.trace ++ s.cutEvents intoWait] }

/-- The host's next move on `rst`, if it has one, before the block's step (R170; reset wins, 60_exceptions.md R156 b). -/
def State.sampleReset (s : State) : State :=
  match s.resetScript with
  | [] => s
  | .quiet :: rest => { s with resetScript := rest }
  | .assert intoWait :: rest => State.assertReset { s with resetScript := rest } intoWait
  | .release :: rest => { s with resetScript := rest, rst := false }

end Sys2Proof.Machine
end

