-- ==== Sys2Proof/Machine/Begin.lean ====
section
/-! DEFINITION. The initialization sequence `BEGIN` (41_begin.md). The numbered steps are those of R100. -/

namespace Sys2Proof.Machine

/-- Steps 1 and 2: the function flags, the row table, the line count. -/
def beginRegisterWrites (c : Config) (columns lines : Byte) (dots5x10 : Bool) : List MicroOp :=
  [.writeCsr .functionFlags (functionFlagsFor c lines dots5x10),
   .writeCsr (.rowOffset 0) c.codes.rowBase0,
   .writeCsr (.rowOffset 1) c.codes.rowBase1,
   .writeCsr (.rowOffset 2) columns,
   .writeCsr (.rowOffset 3) (c.codes.rowBase1 + columns),
   .writeCsr .lineCount lines]

/-- Step 4: `RS`, `EN` and, where it exists, `RW` low, in that order. -/
def startingPoint (c : Config) : List MicroOp := [.setPin .rs .low, .setPin .en .low] ++ rwLow c

/-- The function-set byte `K_FUNCTION | f` sent as a command. -/
def sendFunctionSet (c : Config) (f : Byte) : List MicroOp := send c (c.codes.kFunction ||| f) .command

/-- Step 5, the interface-width handshake (R102). -/
def handshake (c : Config) (f : Byte) : List MicroOp :=
  match c.width with
  | .fourBit =>
    writeBits c c.codes.probe8Bit 4 ++ [.wait c.timing.tHsLong] ++
    writeBits c c.codes.probe8Bit 4 ++ [.wait c.timing.tHsLong] ++
    writeBits c c.codes.probe8Bit 4 ++ [.wait c.timing.tHsShort] ++
    writeBits c c.codes.commit4Bit 4
  | .eightBit =>
    sendFunctionSet c f ++ [.wait c.timing.tHsLong] ++
    sendFunctionSet c f ++ [.wait c.timing.tHsShort] ++
    sendFunctionSet c f

/-- Steps 6 to 9: final function set, display control, clear, entry mode (R104 to R106). -/
def beginDefaults (c : Config) (f : Byte) : List MicroOp :=
  sendFunctionSet c f ++
  [.writeCsr .displayControlFlags c.codes.dcDisplay] ++
  send c (c.codes.kDisplayCtrl ||| c.codes.dcDisplay) .command ++
  send c c.codes.kClear .command ++ [.wait c.timing.tClearHome] ++
  [.writeCsr .entryModeFlags c.codes.eLeft] ++
  send c (c.codes.kEntryMode ||| c.codes.eLeft) .command

/-- Steps 3 to 9, with the function flags `f` of step 1. -/
def beginWaitAndTraffic (c : Config) (f : Byte) : List MicroOp :=
  [.wait c.timing.tPowerOn] ++ startingPoint c ++ handshake c f ++ beginDefaults c f

/-- The whole list of R100. -/
def beginOps (c : Config) (columns lines : Byte) (dots5x10 : Bool) : List MicroOp :=
  beginRegisterWrites c columns lines dots5x10 ++ beginWaitAndTraffic c (functionFlagsFor c lines dots5x10)

/-- `BEGIN columns, lines, d` (R100). Operands outside their ranges raise `IllegalCommand(IllegalOperand)` and nothing
else happens (R108); the decoder of R73 raises it before this meaning is reached (notes/assumptions/9.md). Otherwise the
registers of steps 1 and 2 are new from acceptance on (R109; notes/assumptions/4.md). -/
def execBegin (columns lines : Byte) (dots5x10 : Bool) (s : State) : Host.Outcome State Fault Refusal :=
  if illegalBegin columns lines then
    .next (if s.cmdReady then s.raiseIllegal .illegalOperand 0x01 else s)
  else
    .next (s.acceptAfter (beginRegisterWrites s.cfg columns lines dots5x10)
      (beginWaitAndTraffic s.cfg (functionFlagsFor s.cfg lines dots5x10)))

end Sys2Proof.Machine
end

