-- ==== Sys2Proof/Machine/Cursor.lean ====
section
/-! DEFINITION. `CLEAR`, `HOME`, `SET_CURSOR` (42_cursor_commands.md). -/

namespace Sys2Proof.Machine

/-- R110. -/
def clearOps (c : Config) : List MicroOp := send c c.codes.kClear .command ++ [.wait c.timing.tClearHome]

/-- R111. -/
def homeOps (c : Config) : List MicroOp := send c c.codes.kHome .command ++ [.wait c.timing.tClearHome]

/-- R112. -/
def setCursorOps (c : Config) (r : Regs) (col row : Byte) : List MicroOp :=
  send c (c.codes.kSetDdram ||| ddramAddress r col row) .command

/-- `CLEAR` (R110). -/
def execClear (s : State) : Host.Outcome State Fault Refusal := .next (s.accept (clearOps s.cfg))

/-- `HOME` (R111). -/
def execHome (s : State) : Host.Outcome State Fault Refusal := .next (s.accept (homeOps s.cfg))

/-- `SET_CURSOR col, row` (R112). -/
def execSetCursor (col row : Byte) (s : State) : Host.Outcome State Fault Refusal :=
  .next (s.accept (setCursorOps s.cfg s.regs col row))

end Sys2Proof.Machine
end

