-- ==== Sys2Proof/Machine/Data.lean ====
section
/-! DEFINITION. Custom characters and character output (45_data_commands.md): the only users of `DATA` mode. -/

namespace Sys2Proof.Machine

/-- R140: the CGRAM address as a command, then the eight rows as data, row 0 first. -/
def createCharOps (c : Config) (slot : Byte) (glyph : Glyph) : List MicroOp :=
  send c (c.codes.kSetCgram ||| cgramAddress slot) .command ++ (glyphRows glyph).flatMap fun row => send c row .data

/-- R142. -/
def putcOps (c : Config) (byte : Byte) : List MicroOp := send c byte .data

/-- `CREATE_CHAR slot, r0, ..., r7` (R140). -/
def execCreateChar (slot : Byte) (glyph : Glyph) (s : State) : Host.Outcome State Fault Refusal :=
  .next (s.accept (createCharOps s.cfg slot glyph))

/-- `PUTC byte` (R142). -/
def execPutc (byte : Byte) (s : State) : Host.Outcome State Fault Refusal := .next (s.accept (putcOps s.cfg byte))

end Sys2Proof.Machine
end

