-- ==== Sys2Proof/Machine/Display.lean ====
section
/-! DEFINITION. Display, cursor and blink control and the two scroll operations (43_display_commands.md). "Toggle" in the
source means set for `_on` and clear for `_off` (90_conflicts.md C3). -/

namespace Sys2Proof.Machine

/-- Write `f` to `DISPLAY_CONTROL_FLAGS`, then send it: the flag register first, the send after it and never skipped
(R120). -/
def displayControlOps (c : Config) (f : Byte) : List MicroOp :=
  .writeCsr .displayControlFlags f :: send c (c.codes.kDisplayCtrl ||| f) .command

/-- R120. -/
def displayOnOps (c : Config) (r : Regs) : List MicroOp :=
  displayControlOps c (setFlag r.displayControlFlags c.codes.dcDisplay)

/-- R121. -/
def displayOffOps (c : Config) (r : Regs) : List MicroOp :=
  displayControlOps c (clearFlag r.displayControlFlags c.codes.dcDisplay)

/-- R122. -/
def cursorOnOps (c : Config) (r : Regs) : List MicroOp :=
  displayControlOps c (setFlag r.displayControlFlags c.codes.dcCursor)

/-- R123. -/
def cursorOffOps (c : Config) (r : Regs) : List MicroOp :=
  displayControlOps c (clearFlag r.displayControlFlags c.codes.dcCursor)

/-- R124. -/
def blinkOnOps (c : Config) (r : Regs) : List MicroOp :=
  displayControlOps c (setFlag r.displayControlFlags c.codes.dcBlink)

/-- R125. -/
def blinkOffOps (c : Config) (r : Regs) : List MicroOp :=
  displayControlOps c (clearFlag r.displayControlFlags c.codes.dcBlink)

/-- R126: "one-shot cursor/display-shift command (not persisted to flags)". -/
def scrollLeftOps (c : Config) : List MicroOp := send c (c.codes.kShift ||| c.codes.shDisplay) .command

/-- R127. -/
def scrollRightOps (c : Config) : List MicroOp :=
  send c (c.codes.kShift ||| c.codes.shDisplay ||| c.codes.shRight) .command

/-- `DISPLAY_ON` (R120). -/
def execDisplayOn (s : State) : Host.Outcome State Fault Refusal := .next (s.accept (displayOnOps s.cfg s.regs))

/-- `DISPLAY_OFF` (R121). -/
def execDisplayOff (s : State) : Host.Outcome State Fault Refusal := .next (s.accept (displayOffOps s.cfg s.regs))

/-- `CURSOR_ON` (R122). -/
def execCursorOn (s : State) : Host.Outcome State Fault Refusal := .next (s.accept (cursorOnOps s.cfg s.regs))

/-- `CURSOR_OFF` (R123). -/
def execCursorOff (s : State) : Host.Outcome State Fault Refusal := .next (s.accept (cursorOffOps s.cfg s.regs))

/-- `BLINK_ON` (R124). -/
def execBlinkOn (s : State) : Host.Outcome State Fault Refusal := .next (s.accept (blinkOnOps s.cfg s.regs))

/-- `BLINK_OFF` (R125). -/
def execBlinkOff (s : State) : Host.Outcome State Fault Refusal := .next (s.accept (blinkOffOps s.cfg s.regs))

/-- `SCROLL_LEFT` (R126). -/
def execScrollLeft (s : State) : Host.Outcome State Fault Refusal := .next (s.accept (scrollLeftOps s.cfg))

/-- `SCROLL_RIGHT` (R127). -/
def execScrollRight (s : State) : Host.Outcome State Fault Refusal := .next (s.accept (scrollRightOps s.cfg))

end Sys2Proof.Machine
end

