-- ==== Sys2Proof/Machine/EntryMode.lean ====
section
/-! DEFINITION. Text direction and auto-scroll (44_entry_mode_commands.md). -/

namespace Sys2Proof.Machine

/-- Write `f` to `ENTRY_MODE_FLAGS`, then send it (R130). -/
def entryModeOps (c : Config) (f : Byte) : List MicroOp :=
  .writeCsr .entryModeFlags f :: send c (c.codes.kEntryMode ||| f) .command

/-- R130. -/
def textLtrOps (c : Config) (r : Regs) : List MicroOp := entryModeOps c (setFlag r.entryModeFlags c.codes.eLeft)

/-- R131. -/
def textRtlOps (c : Config) (r : Regs) : List MicroOp := entryModeOps c (clearFlag r.entryModeFlags c.codes.eLeft)

/-- R132. -/
def autoscrollOnOps (c : Config) (r : Regs) : List MicroOp :=
  entryModeOps c (setFlag r.entryModeFlags c.codes.eShiftInc)

/-- R133. -/
def autoscrollOffOps (c : Config) (r : Regs) : List MicroOp :=
  entryModeOps c (clearFlag r.entryModeFlags c.codes.eShiftInc)

/-- `TEXT_LTR` (R130). -/
def execTextLtr (s : State) : Host.Outcome State Fault Refusal := .next (s.accept (textLtrOps s.cfg s.regs))

/-- `TEXT_RTL` (R131). -/
def execTextRtl (s : State) : Host.Outcome State Fault Refusal := .next (s.accept (textRtlOps s.cfg s.regs))

/-- `AUTOSCROLL_ON` (R132). -/
def execAutoscrollOn (s : State) : Host.Outcome State Fault Refusal := .next (s.accept (autoscrollOnOps s.cfg s.regs))

/-- `AUTOSCROLL_OFF` (R133). -/
def execAutoscrollOff (s : State) : Host.Outcome State Fault Refusal := .next (s.accept (autoscrollOffOps s.cfg s.regs))

end Sys2Proof.Machine
end

