-- ==== Sys2Proof/Machine/Sequencer.lean ====
section
/-! DEFINITION. The block's own step (10_state.md R35): hold reset, perform the first pending micro-operation, or accept
the word on the command port. -/

namespace Sys2Proof.Machine

/-- A word is accepted: decoded, then executed or recorded as a fault; either way it is consumed (R35, R152). -/
def acceptWord (w : CommandWord) (s : State) : Host.Outcome State Fault Refusal :=
  match decode w with
  | .op i => exec i s
  | .illegal cause => .next (s.raiseIllegal cause (fieldOpcode w))

/-- One step of the block with its inputs as they stand. While `rst` is asserted it is held in reset (R170); while
`pending` is not empty it performs its first micro-operation (R35); else it accepts the word offered; with none offered
nothing happens (R38). -/
def blockStep (s : State) : Host.Outcome State Fault Refusal :=
  if s.rst then .next s.holdReset
  else
    match s.pending with
    | op :: rest => .next (State.perform { s with pending := rest } op)
    | [] =>
      match s.words with
      | [] => .next s
      | w :: ws => acceptWord w { s with words := ws }

/-- The host's stream of command words, grown at its end: a program is run by offering its words in order (30_encoding.md
R77). -/
def State.offer (s : State) (ws : List CommandWord) : State := { s with words := s.words ++ ws }

/-- `w` as the very next thing the block does: nothing in progress, `rst` low and left alone by the host for one step, and
`w` first on the command port (notes/assumptions/3.md). -/
def State.withNextWord (s : State) (w : CommandWord) : State :=
  { s with pending := [], rst := false, resetScript := .quiet :: s.resetScript, words := w :: s.words }

end Sys2Proof.Machine
end

