-- ==== Sys2Proof/Machine/Step.lean ====
section
/-! DEFINITION. One step of the machine: the host's move on `rst`, then the block's step; and the placing of a word where
the next step takes it from. -/

namespace Sys2Proof.Machine

/-- One step (10_state.md R32, R35; 70_reset_and_hazards.md R170, R171). -/
def step (s : State) : Host.Outcome State Fault Refusal := blockStep s.sampleReset

/-- `s` with the word that the table bits `w` stand for as the one the next step accepts. -/
def State.withFetchWord (s : State) (nbits w : Nat) : State := s.withNextWord (wordOfTableBits nbits w)

end Sys2Proof.Machine
end

