-- ==== Sys2Proof/Machine/Construct.lean ====
section
/-! DEFINITION. Building a block from raw pins (60_exceptions.md R151): the one place where `ConfigError` arises. -/

namespace Sys2Proof.Machine

/-- What the platform hands over at construction: a pin handle is a number (00_scope.md R6, 60_exceptions.md R151). -/
structure PinPlan where
  width : Width
  registerSelect : Option Nat
  enable : Option Nat
  readWrite : Option Nat
  data : List Nat
deriving DecidableEq, Repr

/-- A configuration from raw pins, or the first precondition they violate. -/
def PinPlan.config (p : PinPlan) : Except ConfigError Config :=
  if p.registerSelect.isNone then .error .missingRegisterSelect
  else if p.enable.isNone then .error .missingEnable
  else if p.data.length ≠ p.width.nData then .error .dataPinCount
  else .ok { width := p.width, hasRw := p.readWrite.isSome }

/-- Construction fails fast (R151); the block built is in its reset state, since power-up is a reset
(70_reset_and_hazards.md R170). -/
def State.construct (p : PinPlan) : Host.Outcome State Fault Refusal :=
  match p.config with
  | .ok c => .next (State.resetOf c)
  | .error e => .fault (.configError e)

end Sys2Proof.Machine
end

