-- ==== Sys2Proof/Machine/Pseudo.lean ====
section
/-! DEFINITION. The pseudo-operations and what each expands to (30_encoding.md R78, 45_data_commands.md R144). -/

namespace Sys2Proof.Machine

/-- R78. -/
inductive Pseudo where
  | print (text : List Byte)
  | beginDefault (columns lines : Byte)
  | textDirection (ltr : Bool)
  | autoscroll (on : Bool)
  | display (on : Bool)
  | cursor (on : Bool)
  | blink (on : Bool)
deriving DecidableEq, Repr

/-- The operations a pseudo-operation stands for, in order (R78). -/
def Pseudo.expand : Pseudo → List Instr
  | .print text => text.map .putc
  | .beginDefault columns lines => [.begin columns lines false]
  | .textDirection true => [.textLtr]
  | .textDirection false => [.textRtl]
  | .autoscroll true => [.autoscrollOn]
  | .autoscroll false => [.autoscrollOff]
  | .display true => [.displayOn]
  | .display false => [.displayOff]
  | .cursor true => [.cursorOn]
  | .cursor false => [.cursorOff]
  | .blink true => [.blinkOn]
  | .blink false => [.blinkOff]

end Sys2Proof.Machine
end

