-- ==== Sys2Proof/Machine/System.lean ====
section
/-! DEFINITION. Several blocks on disjoint pins: "they are independent and require no coordination", so a system is the
product of its blocks (60_exceptions.md R164). -/

namespace Sys2Proof.Machine

/-- Block `k` of a system of blocks takes a step; the others do nothing. A number that names no block changes nothing. -/
def stepBlock : Nat → List State → Host.Outcome (List State) Fault Refusal
  | _, [] => .next []
  | 0, s :: rest =>
    match step s with
    | .next t => .next (t :: rest)
    | .fault f => .fault f
    | .refused r => .refused r
  | k + 1, s :: rest =>
    match stepBlock k rest with
    | .next rest' => .next (s :: rest')
    | .fault f => .fault f
    | .refused r => .refused r

end Sys2Proof.Machine
end

