-- ==== Sys2Proof/Machine/Atomic.lean ====
section
/-! DEFINITION. An operation's micro-operation list as one function of the configuration, the registers and the operands
(10_state.md R35), and the atomic view, in which a whole operation is one step (R37). -/

namespace Sys2Proof.Machine

/-- `ops(config, state, operands)` (R35). The type shows that no operation reads a pin, the time or the trace. -/
def opsOf (c : Config) (r : Regs) (i : Instr) : List MicroOp :=
  match i with
  | .begin columns lines dots5x10 => beginOps c columns lines dots5x10
  | .clear => clearOps c
  | .home => homeOps c
  | .setCursor col row => setCursorOps c r col row
  | .displayOn => displayOnOps c r
  | .displayOff => displayOffOps c r
  | .cursorOn => cursorOnOps c r
  | .cursorOff => cursorOffOps c r
  | .blinkOn => blinkOnOps c r
  | .blinkOff => blinkOffOps c r
  | .scrollLeft => scrollLeftOps c
  | .scrollRight => scrollRightOps c
  | .textLtr => textLtrOps c r
  | .textRtl => textRtlOps c r
  | .autoscrollOn => autoscrollOnOps c r
  | .autoscrollOff => autoscrollOffOps c r
  | .createChar slot glyph => createCharOps c slot glyph
  | .putc byte => putcOps c byte

/-- The atomic view (R37): take the operation and run it to its end. -/
def execAtomic (i : Instr) (s : State) : Host.Outcome State Fault Refusal :=
  match exec i s with
  | .next t => .next t.complete
  | .fault f => .fault f
  | .refused r => .refused r

end Sys2Proof.Machine
end

