-- ==== Sys2Proof/Machine/Observe.lean ====
section
/-! DEFINITION. Views of a trace (00_scope.md R13): the transfer list, the send list, the least duration, and the tokens
traces are written with. -/

namespace Sys2Proof.Machine

/-- The events a list of micro-operations adds to the trace, in order. -/
def traceOf (ops : List MicroOp) : List TraceEvent := ops.flatMap MicroOp.events

/-- The least time a list of micro-operations takes: the sum of its waits (R14, 70_reset_and_hazards.md R182). -/
def leastTime : List MicroOp → Nat
  | [] => 0
  | op :: rest => op.minTime + leastTime rest

/-- "the *transfer list*, one entry `n:v` per `Drive(n, v)`" (R13). -/
def transferList : List TraceEvent → List (Nat × Byte)
  | [] => []
  | .drive n v :: rest => (n, v) :: transferList rest
  | .setPin _ _ :: rest => transferList rest
  | .wait _ :: rest => transferList rest
  | .cutWait _ _ :: rest => transferList rest

/-- Where the reader of a trace stands inside a `Send` (40_pin_primitives.md R92): outside one; after `RS`; after the high
nibble. -/
inductive SendScan where
  | outside
  | selected (mode : SendMode)
  | halfSent (mode : SendMode) (high : Byte)
deriving DecidableEq, Repr

/-- The mode that a level of `RS` selects (R93). -/
def SendMode.ofLevel : Level → SendMode
  | .low => .command
  | .high => .data

/-- One event of a trace: where the reader stands after it, and the send it completes, if any. A `Send` begins by writing
`RS`, may write `RW`, and then drives the data pins once (arity 8) or twice (arity 4); a handshake nibble is preceded by
`EN`, not by `RS`, so it is no send (notes/assumptions/21.md). -/
def scanEvent (place : SendScan) (e : TraceEvent) : SendScan × List (SendMode × Byte) :=
  match e, place with
  | .setPin .rs l, _ => (.selected (SendMode.ofLevel l), [])
  | .setPin .rw _, place => (place, [])
  | .setPin .en _, .selected _ => (.outside, [])
  | .setPin .en _, place => (place, [])
  | .drive n v, .selected mode => if n = 8 then (.outside, [(mode, v)]) else (.halfSent mode v, [])
  | .drive _ v, .halfSent mode high => (.outside, [(mode, (high <<< 4) ||| v)])
  | .drive _ _, .outside => (.outside, [])
  | .wait _, .selected _ => (.outside, [])
  | .wait _, place => (place, [])
  | .cutWait _ _, place => (place, [])

/-- The sends read from a trace, from a given place on. -/
def sendsFrom (place : SendScan) : List TraceEvent → List (SendMode × Byte)
  | [] => []
  | e :: rest => (scanEvent place e).2 ++ sendsFrom (scanEvent place e).1 rest

/-- "the *send list*, one entry `C:v` or `D:v` per `Send(v, COMMAND)` or `Send(v, DATA)`" (R13). -/
def sendList (t : List TraceEvent) : List (SendMode × Byte) := sendsFrom .outside t

/-- One hexadecimal digit, capitals. -/
def hexDigit (n : Nat) : Char := if n < 10 then Char.ofNat (48 + n) else Char.ofNat (55 + n)

/-- The `digits` lowest hexadecimal digits of `n`, most significant first. -/
def hexText : Nat → Nat → List Char
  | 0, _ => []
  | digits + 1, n => hexText digits (n / 16) ++ [hexDigit (n % 16)]

/-- `0` stands for `LOW` and `1` for `HIGH` (R11). -/
def Level.text : Level → String
  | .low => "0"
  | .high => "1"

/-- The pin's name in a token. -/
def Pin.text : Pin → String
  | .rs => "RS"
  | .rw => "RW"
  | .en => "EN"

/-- The token of one trace entry (R13): `RS=0`, `DB[3:0]=0x4`, `W(100)`. The form of a cut wait is the model's. -/
def TraceEvent.token : TraceEvent → String
  | .setPin pin l => pin.text ++ "=" ++ l.text
  | .drive n v => "DB[" ++ toString (n - 1) ++ ":0]=0x" ++ String.ofList (hexText (n / 4) v.toNat)
  | .wait n => "W(" ++ toString n ++ ")"
  | .cutWait n d => "W(" ++ toString n ++ ",cut " ++ toString d ++ ")"

/-- A trace written one token per micro-operation (R13). -/
def traceText (t : List TraceEvent) : List String := t.map TraceEvent.token

end Sys2Proof.Machine
end

