-- ==== Sys2Proof/Machine/Ports.lean ====
section
/-! DEFINITION. The block's ports as functions of the state (10_state.md R31): the register port with its map (R25), and
the command port's signals. The pin ports are the latches of `State.pins`. -/

namespace Sys2Proof.Machine

/-- `csr_data` for the register number on `csr_num`: "the register's 8-bit value as it stands at that moment", without
any effect and never refused (R25). -/
def State.csrRead (s : State) (num : BitVec 4) : Byte :=
  match num.toNat with
  | 0x0 => s.regs.functionFlags
  | 0x1 => s.regs.displayControlFlags
  | 0x2 => s.regs.entryModeFlags
  | 0x3 => s.regs.lineCount
  | 0x4 => s.regs.rowOffset.row0
  | 0x5 => s.regs.rowOffset.row1
  | 0x6 => s.regs.rowOffset.row2
  | 0x7 => s.regs.rowOffset.row3
  | 0x8 => statusByte s.busy s.fault.fault
  | 0x9 => s.fault.cause
  | 0xA => s.fault.opcode
  | 0xB => configByte s.cfg
  | _ => 0x00

/-- `cmd_valid`: the host offers a word. -/
def State.cmdValid (s : State) : Bool := !s.words.isEmpty

/-- `cmd_word`, when one is offered. -/
def State.cmdWord (s : State) : Option CommandWord := s.words.head?

/-- A word is accepted "at the moment `cmd_valid` and `cmd_ready` both hold" (R31). -/
def State.accepting (s : State) : Bool := s.cmdValid && s.cmdReady

/-- A run is over: no further word to offer and `pending` empty (R38). -/
def State.runOver (s : State) : Bool := !s.cmdValid && !s.busy

end Sys2Proof.Machine
end

