-- ==== Sys2Proof/Safety.lean ====
section
/-! DEFINITION. What the claims about the block speak of: the legal values of its state, the invariant every step keeps,
the mirror of the controller's flag registers (10_state.md R29), the premise "a `BEGIN` has completed"
(70_reset_and_hazards.md R172), and what two states share when they differ only in what the block never reads. -/

namespace Sys2Proof.Machine

/-! ### Legal values -/

/-- The registers hold what R22 to R24, R26 and R27 of 10_state.md let them hold: reserved bits 0, `DL` the interface
width, `N` exactly when there is more than one line, `F` only with one line, 1 to 4 lines, and a row table
`[0x00, 0x40, c, 0x40 + c]`. The bit places are those of the default constants. -/
def Regs.legal (c : Config) (r : Regs) : Bool :=
  r.functionFlags &&& 0xE3 == 0
    && r.functionFlags.getLsbD 4 == (c.width == .eightBit)
    && r.functionFlags.getLsbD 3 == decide (1 < r.lineCount.toNat)
    && (!r.functionFlags.getLsbD 2 || r.lineCount == 1)
    && r.displayControlFlags &&& 0xF8 == 0
    && r.entryModeFlags &&& 0xFC == 0
    && decide (1 ≤ r.lineCount.toNat) && decide (r.lineCount.toNat ≤ 4)
    && r.rowOffset.row0 == 0x00 && r.rowOffset.row1 == 0x40
    && r.rowOffset.row3 == 0x40 + r.rowOffset.row2

/-- The latches are those the block has (10_state.md R30), and `RW` is never driven high (20_memory.md R67). -/
def Pins.legal (c : Config) (p : Pins) : Bool :=
  p.rw.isSome == c.hasRw && p.rw != some (.holds .high) && p.db.length == c.width.nData

/-- The fault record is empty, or holds one of the two causes with an opcode that can raise it (R28, R152). -/
def FaultRecord.legal (f : FaultRecord) : Bool :=
  if f.fault then
    (f.cause == 0x01 && (f.opcode == 0x00 || decide (0x13 ≤ f.opcode.toNat))) || (f.cause == 0x02 && f.opcode == 0x01)
  else f.cause == 0x00 && f.opcode == 0x00

/-- A micro-operation that can stand in `pending`: `RW` is written only where it exists and only low (R30, R67); every
transfer has arity `N_DATA` and no bit above it (40_pin_primitives.md R91 a); the only registers written after the first
moment of an operation are the display-control and entry-mode flags, with their reserved bits 0 (41_begin.md R109). -/
def MicroOp.legal (c : Config) : MicroOp → Bool
  | .setPin .rw l => c.hasRw && l == .low
  | .setPin .rs _ => true
  | .setPin .en _ => true
  | .drive n v => n == c.width.nData && decide (v.toNat < 2 ^ n)
  | .wait _ => true
  | .writeCsr .displayControlFlags v => v &&& 0xF8 == 0
  | .writeCsr .entryModeFlags v => v &&& 0xFC == 0
  | .writeCsr .functionFlags _ => false
  | .writeCsr .lineCount _ => false
  | .writeCsr (.rowOffset _) _ => false

/-- "every operation's last micro-operation is a `Wait` of at least `T_SETTLE`" (70_reset_and_hazards.md R181). -/
def endsSettled (c : Config) (ops : List MicroOp) : Bool :=
  match ops.getLast? with
  | some (.wait n) => decide (c.timing.tSettle ≤ n)
  | some (.setPin _ _) => false
  | some (.drive _ _) => false
  | some (.writeCsr _ _) => false
  | none => false

/-- The block's state is the reset state (R33). -/
def State.atReset (s : State) : Bool :=
  s.regs == Regs.afterReset s.cfg && s.fault == FaultRecord.afterReset && s.pins == Pins.afterReset s.cfg
    && s.pending.isEmpty

/-! ### The invariant -/

/-- What every step keeps. -/
structure Inv (s : State) : Prop where
  /-- the constants of R7 and R8 have their defaults -/
  standard : s.cfg.Standard
  regs : s.regs.legal s.cfg = true
  pins : s.pins.legal s.cfg = true
  fault : s.fault.legal = true
  pendingLegal : s.pending.all (MicroOp.legal s.cfg) = true
  /-- an operation in progress ends with its settle time -/
  pendingSettles : s.pending = [] ∨ endsSettled s.cfg s.pending = true
  /-- once the operation in progress is over, `EN` is not left high (40_pin_primitives.md R91 b) -/
  enableRests : s.complete.pins.en ≠ .holds .high
  /-- while `rst` is asserted the block is in the reset state (70_reset_and_hazards.md R170) -/
  heldInReset : s.rst = true → s.atReset = true

/-! ### The mirror of the controller's flag registers -/

/-- A function-set byte: `001x xxxx` (30_encoding.md R80). -/
def isFunctionSet (b : Byte) : Bool := b &&& 0xE0 == 0x20

/-- A display-control byte: `0000 1DCB` (R80). -/
def isDisplayControl (b : Byte) : Bool := b &&& 0xF8 == 0x08

/-- An entry-mode byte: `0000 01LS` (R80). -/
def isEntryMode (b : Byte) : Bool := b &&& 0xFC == 0x04

/-- The last command byte of one form in a send list. -/
def lastCommand (form : Byte → Bool) (sends : List (SendMode × Byte)) : Option Byte :=
  ((sends.filter fun p => p.1 == .command && form p.2).getLast?).map Prod.snd

/-- Each flag register equals what was last sent to the matching controller register, if anything was (R29). -/
def Mirrors (s : State) : Prop :=
  (∀ b, lastCommand isFunctionSet (sendList s.trace) = some b → b = s.cfg.codes.kFunction ||| s.regs.functionFlags) ∧
  (∀ b, lastCommand isDisplayControl (sendList s.trace) = some b →
    b = s.cfg.codes.kDisplayCtrl ||| s.regs.displayControlFlags) ∧
  (∀ b, lastCommand isEntryMode (sendList s.trace) = some b → b = s.cfg.codes.kEntryMode ||| s.regs.entryModeFlags)

/-- The mirror holds once the operation in progress, if any, is over. -/
def MirrorsWhenDone (s : State) : Prop := Mirrors s.complete

/-- A `BEGIN` has completed since the last reset: its whole trace stands in the trace of the run (R172). -/
def Begun (s : State) : Prop :=
  ∃ before after columns lines dots5x10,
    beginRangesHold columns lines = true ∧
    s.trace = before ++ traceOf (beginOps s.cfg columns lines dots5x10) ++ after

/-! ### What the block never reads -/

/-- Two states that may differ only in the pin latches, the trace, the time and the ended runs. -/
structure SameLogic (s t : State) : Prop where
  cfg : s.cfg = t.cfg
  regs : s.regs = t.regs
  fault : s.fault = t.fault
  pending : s.pending = t.pending
  rst : s.rst = t.rst
  words : s.words = t.words
  resetScript : s.resetScript = t.resetScript

/-! ### Shapes of claims -/

/-- The opcode alone selects the operation, whatever the other bits (30_encoding.md R72, R74 c): for the operations
without operands. -/
def OpcodeSelects (opcode : Byte) (i : Instr) : Prop := ∀ w, fieldOpcode w = opcode → decode w = .op i

/-- What one `WriteBits` of the `n`-bit value `v` puts in the trace (40_pin_primitives.md R90). -/
def enablePulseTrace (t : Timing) (n : Nat) (v : Byte) : List TraceEvent :=
  [.drive n v, .setPin .en .low, .wait t.tEnSetup, .setPin .en .high, .wait t.tEnHigh, .setPin .en .low, .wait t.tSettle]

/-- From `s`, the operation in progress in `t` is over after at least these many time units (70_reset_and_hazards.md
R182), with the default timing constants. -/
def LastsAtLeast (s t : State) (fourBit eightBit : Nat) : Prop :=
  s.cfg.timing = {} →
    s.elapsed + (match s.cfg.width with | .fourBit => fourBit | .eightBit => eightBit) ≤ t.complete.elapsed

end Sys2Proof.Machine
end

