-- ==== Sys2Proof/Certificates/Slice0/Obligations.lean ====
section
/-! DEFINITION. The statements for the provers, one `def Obligations.<Name> : Prop` each; OBLIGATIONS.json lists them. Each
docstring names the rule it formalises. `d` in a next state is time: a free value, so such a statement holds for
whatever the environment draws (notes/assumptions/7.md). -/

open Sys2Proof Sys2Proof.Machine

/-! ### Encoding -/

/-- R73: which words are illegal and why, and what every other word is decoded to, with its operands. The opcode decides
first; no other word raises anything. -/
def Obligations.DecodingIsTotal : Prop :=
  ∀ w : CommandWord,
    (decode w = .illegal .illegalOpcode ↔ fieldOpcode w = 0x00 ∨ 0x13 ≤ (fieldOpcode w).toNat) ∧
    (decode w = .illegal .illegalOperand ↔
      fieldOpcode w = 0x01 ∧ (fieldA w = 0 ∨ fieldB w = 0 ∨ 4 < (fieldB w).toNat)) ∧
    (fieldOpcode w = 0x01 → fieldA w ≠ 0 → fieldB w ≠ 0 → (fieldB w).toNat ≤ 4 →
      decode w = .op (.begin (fieldA w) (fieldB w) (w.getLsbD 8))) ∧
    (fieldOpcode w = 0x02 → decode w = .op .clear) ∧
    (fieldOpcode w = 0x03 → decode w = .op .home) ∧
    (fieldOpcode w = 0x04 → decode w = .op (.setCursor (fieldA w) (fieldB w))) ∧
    (fieldOpcode w = 0x05 → decode w = .op .displayOn) ∧
    (fieldOpcode w = 0x06 → decode w = .op .displayOff) ∧
    (fieldOpcode w = 0x07 → decode w = .op .cursorOn) ∧
    (fieldOpcode w = 0x08 → decode w = .op .cursorOff) ∧
    (fieldOpcode w = 0x09 → decode w = .op .blinkOn) ∧
    (fieldOpcode w = 0x0A → decode w = .op .blinkOff) ∧
    (fieldOpcode w = 0x0B → decode w = .op .scrollLeft) ∧
    (fieldOpcode w = 0x0C → decode w = .op .scrollRight) ∧
    (fieldOpcode w = 0x0D → decode w = .op .textLtr) ∧
    (fieldOpcode w = 0x0E → decode w = .op .textRtl) ∧
    (fieldOpcode w = 0x0F → decode w = .op .autoscrollOn) ∧
    (fieldOpcode w = 0x10 → decode w = .op .autoscrollOff) ∧
    (fieldOpcode w = 0x11 →
      decode w = .op (.createChar (fieldA w)
        ⟨w.extractLsb' 0 8, w.extractLsb' 8 8, w.extractLsb' 16 8, w.extractLsb' 24 8,
         w.extractLsb' 32 8, w.extractLsb' 40 8, w.extractLsb' 48 8, w.extractLsb' 56 8⟩)) ∧
    (fieldOpcode w = 0x12 → decode w = .op (.putc (fieldA w)))

/-- 30_encoding.md, part 1: decoding the word of a well-formed operation gives it back, for all eighteen operations and
every operand value. -/
def Obligations.DecodeOfEncode : Prop := ∀ i : Instr, i.wellFormed = true → decode (encode i) = .op i

/-- 30_encoding.md R71, R74 (c), the other direction: a word that decodes is, in the bits its format uses, the word of the
operation it decodes to, and that operation is well-formed. -/
def Obligations.DecodedWordsAreTheirEncoding : Prop :=
  ∀ (w : CommandWord) (i : Instr), decode w = .op i → i.wellFormed = true ∧ encode i = w &&& i.usedBits

/-- R74 (c): "two words that differ only in ignored bits are the same operation". -/
def Obligations.IgnoredBitsHaveNoEffect : Prop :=
  ∀ (w w' : CommandWord) (i : Instr), decode w = .op i → w' &&& i.usedBits = w &&& i.usedBits → decode w' = .op i

/-- A few words written out from the tables of R71 and R72, one of each format. -/
def Obligations.SampleWordsDecode : Prop :=
  decode 0x01100000000000000102 = .op (.begin 16 2 true) ∧
  decode 0x02000000000000000000 = .op .clear ∧
  decode 0x04050000000000000001 = .op (.setCursor 5 1) ∧
  decode 0x0A000000000000000000 = .op .blinkOff ∧
  decode 0x0E000000000000000000 = .op .textRtl ∧
  decode 0x11010000040E1F1F0A00 = .op (.createChar 1 ⟨0x00, 0x0A, 0x1F, 0x1F, 0x0E, 0x04, 0x00, 0x00⟩) ∧
  decode 0x12480000000000000000 = .op (.putc 0x48)

/-! ### The step -/

/-- R35: when the word the block takes decodes to an operation, the step is that operation, the word consumed. `u` is the
state after the host's move on `rst`. -/
def Obligations.StepRunsDecodedInstruction : Prop :=
  ∀ (s u : State) (w : CommandWord) (ws : List CommandWord) (i : Instr),
    u = s.sampleReset → u.rst = false → u.pending = [] → u.words = w :: ws → decode w = .op i →
    i.wellFormed = true ∧ step s = exec i { u with words := ws }

/-- A word placed by `withFetchWord` is what the very next step runs, on the state it was placed in with nothing in
progress and `rst` low (notes/assumptions/3.md). -/
def Obligations.PlacedWordRunsNext : Prop :=
  ∀ (s : State) (nbits w : Nat) (i : Instr), decodeTableWord nbits w = some i →
    step (s.withFetchWord nbits w) = exec i { s with pending := [], rst := false }

/-- R35, R31: while an operation is in progress a step performs its first micro-operation and the offered words wait. -/
def Obligations.StepPerformsFirstMicroOp : Prop :=
  ∀ (s u : State) (op : MicroOp) (rest : List MicroOp),
    u = s.sampleReset → u.rst = false → u.pending = op :: rest →
    ∃ t, step s = .next t ∧ t.pending = rest ∧ t.words = s.words ∧ t.regs = op.onRegs u.regs ∧
      t.pins = op.onPins u.pins ∧ t.trace = u.trace ++ op.events ∧ u.elapsed + op.minTime ≤ t.elapsed ∧
      t.fault = u.fault ∧ t.cfg = u.cfg ∧ t.endedTraces = u.endedTraces ∧ t.resetScript = u.resetScript ∧ t.rst = false

/-- R153, R152: no step stops the machine; there is "no bus-error, timeout or not-ready outcome for any rule". -/
def Obligations.NoStepStops : Prop := ∀ s : State, ∃ t, step s = .next t

/-- R31, R63: a word leaves the port only when the block is idle and out of reset, one word at a time, in order. -/
def Obligations.WordsTakenInOrderWhenIdle : Prop :=
  ∀ s t : State, step s = .next t → t.words ≠ s.words →
    s.sampleReset.rst = false ∧ s.sampleReset.pending = [] ∧ ∃ w, s.words = w :: t.words

/-- 10_state.md on the ports: an operation offered while the block is not ready "waits; it is not queued, not dropped and not
looked at". That `exec` then answers the same state is notes/assumptions/5.md. -/
def Obligations.NotReadyChangesNothing : Prop :=
  ∀ (s : State) (i : Instr), s.cmdReady = false → exec i s = .next s

/-- R6: "`interface_width` and the set of data pins are immutable after construction". -/
def Obligations.ConfigurationNeverChanges : Prop := ∀ s t : State, step s = .next t → t.cfg = s.cfg

/-! ### The pin primitives -/

/-- R54: bit `i` of the value goes to `DB[i]`, 1 as `HIGH`; the other latches keep their level; bits of `v` at `n` and
above are ignored. -/
def Obligations.DriveSetsDataPins : Prop :=
  ∀ (p : Pins) (n : Nat) (v : Byte), n ≤ 8 →
    (∀ (i : Nat) (old : Latch), p.db[i]? = some old →
      (p.driveData n v).db[i]? =
        some (if i < n then .holds (if v.getLsbD i then .high else .low) else old)) ∧
    (p.driveData n v).db.length = p.db.length ∧
    (p.driveData n v).rs = p.rs ∧ (p.driveData n v).rw = p.rw ∧ (p.driveData n v).en = p.en ∧
    p.driveData n (lowBits n v) = p.driveData n v

/-- R90: what one `WriteBits` leaves: the seven entries in the trace, the data pins at the value, the others, `RS`, `RW` and
every register as before, `EN` low, and at least its three delays passed. -/
def Obligations.WriteBitsPulsesEnable : Prop :=
  ∀ (s t : State) (v : Byte) (n : Nat), n ≤ 8 → t = s.performAll (writeBits s.cfg v n) →
    t.trace = s.trace ++ enablePulseTrace s.cfg.timing n (lowBits n v) ∧
    (∀ i, i < 8 → (lowBits n v).getLsbD i = (decide (i < n) && v.getLsbD i)) ∧
    (∀ i, i < n → i < s.pins.db.length →
      t.pins.db[i]? = some (.holds (if v.getLsbD i then .high else .low))) ∧
    (∀ i, n ≤ i → t.pins.db[i]? = s.pins.db[i]?) ∧ t.pins.db.length = s.pins.db.length ∧
    t.pins.en = .holds .low ∧ t.pins.rs = s.pins.rs ∧ t.pins.rw = s.pins.rw ∧
    t.regs = s.regs ∧ t.fault = s.fault ∧ t.pending = s.pending ∧
    s.elapsed + s.cfg.timing.tEnSetup + s.cfg.timing.tEnHigh + s.cfg.timing.tSettle ≤ t.elapsed

/-- 40_pin_primitives.md section 2: a `Send` is `RS` at the mode's level, then `RW` low where it exists, then one `WriteBits` of
the byte or two, of the high nibble and of the low one; it is one entry of the send list in both widths (read from the
trace as notes/assumptions/21.md says); its transfers are the byte, or the high nibble and then the low one; on return `RS` holds the mode's level, `RW` (if it exists) and `EN` are low; no register
changes. -/
def Obligations.SendMovesOneByte : Prop :=
  ∀ (s t : State) (v : Byte) (mode : SendMode), s.pins.legal s.cfg = true → t = s.performAll (send s.cfg v mode) →
    send s.cfg v mode =
      [.setPin .rs (match mode with | .command => .low | .data => .high)] ++
      (if s.cfg.hasRw then [.setPin .rw .low] else []) ++
      (match s.cfg.width with
       | .eightBit => writeBits s.cfg v 8
       | .fourBit => writeBits s.cfg (v >>> 4) 4 ++ writeBits s.cfg v 4) ∧
    t.trace = s.trace ++
      [.setPin .rs (match mode with | .command => .low | .data => .high)] ++
      (if s.cfg.hasRw then [.setPin .rw .low] else []) ++
      (match s.cfg.width with
       | .eightBit => enablePulseTrace s.cfg.timing 8 v
       | .fourBit =>
         enablePulseTrace s.cfg.timing 4 (v >>> 4) ++ enablePulseTrace s.cfg.timing 4 (v &&& 0x0F)) ∧
    sendList (traceOf (send s.cfg v mode)) = [(mode, v)] ∧
    transferList (traceOf (send s.cfg v mode)) =
      (match s.cfg.width with
       | .eightBit => [(8, v)]
       | .fourBit => [(4, v >>> 4), (4, v &&& 0x0F)]) ∧
    (send s.cfg v mode).length =
      (match s.cfg.width with | .eightBit => 8 | .fourBit => 15) + (if s.cfg.hasRw then 1 else 0) ∧
    t.pins.rs = .holds (match mode with | .command => .low | .data => .high) ∧
    t.pins.rw = (if s.cfg.hasRw then some (.holds .low) else none) ∧
    t.pins.en = .holds .low ∧
    (∀ i, i < s.cfg.width.nData → t.pins.db[i]? = some (.holds (if v.getLsbD i then .high else .low))) ∧
    t.regs = s.regs ∧ t.fault = s.fault

/-! ### Operations: what each does when it is accepted -/

/-- R110, R111: `CLEAR` and `HOME`: one send, then `T_CLEAR_HOME`; no register changes. -/
def Obligations.ClearAndHome : Prop :=
  OpcodeSelects 0x02 .clear ∧ OpcodeSelects 0x03 .home ∧
  ∀ s : State, s.cmdReady = true →
    (∃ t, exec .clear s = .next t ∧
      t = { s with pending := send s.cfg s.cfg.codes.kClear .command ++ [.wait s.cfg.timing.tClearHome] } ∧
      LastsAtLeast s t 2204 2102) ∧
    (∃ t, exec .home s = .next t ∧
      t = { s with pending := send s.cfg s.cfg.codes.kHome .command ++ [.wait s.cfg.timing.tClearHome] } ∧
      LastsAtLeast s t 2204 2102)

/-- R112: `SET_CURSOR`: the row clamped to `min(row, 3, LINE_COUNT - 1)`, the row's offset plus the column modulo 256, sent as
a set-DDRAM-address command; no register changes. Before any `BEGIN` it sends `0x80 | col`. -/
def Obligations.SetCursorSendsAddress : Prop :=
  (∀ w, fieldOpcode w = 0x04 → decode w = .op (.setCursor (fieldA w) (fieldB w))) ∧
  (∀ (s : State) (col row : Byte), s.cmdReady = true → 1 ≤ s.regs.lineCount.toNat →
    ∃ t r offset, exec (.setCursor col row) s = .next t ∧
      r = min row.toNat (min 3 (s.regs.lineCount.toNat - 1)) ∧
      ((r = 0 ∧ offset = s.regs.rowOffset.row0) ∨ (r = 1 ∧ offset = s.regs.rowOffset.row1) ∨
       (r = 2 ∧ offset = s.regs.rowOffset.row2) ∨ (r = 3 ∧ offset = s.regs.rowOffset.row3)) ∧
      t = { s with pending := send s.cfg (s.cfg.codes.kSetDdram ||| (offset + col)) .command } ∧
      LastsAtLeast s t 204 102) ∧
  (∀ (c : Config) (col row : Byte), c.Standard →
    exec (.setCursor col row) (State.resetOf c) =
      .next { State.resetOf c with pending := send c (0x80 ||| col) .command })

/-- R112 (a): "`set_cursor(col, row)` for `row >= line_count` behaves identically to `set_cursor(col, line_count-1)`". -/
def Obligations.SetCursorClampsRow : Prop :=
  ∀ (s : State) (col row : Byte), 1 ≤ s.regs.lineCount.toNat → s.regs.lineCount.toNat ≤ 4 →
    s.regs.lineCount.toNat ≤ row.toNat →
    exec (.setCursor col row) s = exec (.setCursor col (s.regs.lineCount - 1)) s

/-- R120 to R125: each display operation writes its one flag, set or cleared, then sends the display-control byte, whatever
the flag was before; nothing else changes. -/
def Obligations.DisplayFlagOperations : Prop :=
  OpcodeSelects 0x05 .displayOn ∧ OpcodeSelects 0x06 .displayOff ∧ OpcodeSelects 0x07 .cursorOn ∧
  OpcodeSelects 0x08 .cursorOff ∧ OpcodeSelects 0x09 .blinkOn ∧ OpcodeSelects 0x0A .blinkOff ∧
  ∀ s : State, s.cmdReady = true → ∀ (i : Instr) (f : Byte),
    (i, f) ∈
      [(Instr.displayOn, s.regs.displayControlFlags ||| s.cfg.codes.dcDisplay),
       (Instr.displayOff, s.regs.displayControlFlags &&& ~~~s.cfg.codes.dcDisplay),
       (Instr.cursorOn, s.regs.displayControlFlags ||| s.cfg.codes.dcCursor),
       (Instr.cursorOff, s.regs.displayControlFlags &&& ~~~s.cfg.codes.dcCursor),
       (Instr.blinkOn, s.regs.displayControlFlags ||| s.cfg.codes.dcBlink),
       (Instr.blinkOff, s.regs.displayControlFlags &&& ~~~s.cfg.codes.dcBlink)] →
    ∃ t, exec i s = .next t ∧
      t = { s with pending := .writeCsr .displayControlFlags f :: send s.cfg (s.cfg.codes.kDisplayCtrl ||| f) .command } ∧
      t.complete.regs = { s.regs with displayControlFlags := f } ∧
      LastsAtLeast s t 204 102

/-- R126, R127: the scroll operations are one send and write no register: "not persisted to flags". -/
def Obligations.ScrollOperations : Prop :=
  OpcodeSelects 0x0B .scrollLeft ∧ OpcodeSelects 0x0C .scrollRight ∧
  ∀ s : State, s.cmdReady = true →
    (∃ t, exec .scrollLeft s = .next t ∧
      t = { s with pending := send s.cfg (s.cfg.codes.kShift ||| s.cfg.codes.shDisplay) .command } ∧
      LastsAtLeast s t 204 102) ∧
    (∃ t, exec .scrollRight s = .next t ∧
      t = { s with
            pending := send s.cfg (s.cfg.codes.kShift ||| s.cfg.codes.shDisplay ||| s.cfg.codes.shRight) .command } ∧
      LastsAtLeast s t 204 102)

/-- R130 to R133: each entry-mode operation writes its one flag, set or cleared, then sends the entry-mode byte, whatever the
flag was before; nothing else changes. -/
def Obligations.EntryModeOperations : Prop :=
  OpcodeSelects 0x0D .textLtr ∧ OpcodeSelects 0x0E .textRtl ∧ OpcodeSelects 0x0F .autoscrollOn ∧
  OpcodeSelects 0x10 .autoscrollOff ∧
  ∀ s : State, s.cmdReady = true → ∀ (i : Instr) (f : Byte),
    (i, f) ∈
      [(Instr.textLtr, s.regs.entryModeFlags ||| s.cfg.codes.eLeft),
       (Instr.textRtl, s.regs.entryModeFlags &&& ~~~s.cfg.codes.eLeft),
       (Instr.autoscrollOn, s.regs.entryModeFlags ||| s.cfg.codes.eShiftInc),
       (Instr.autoscrollOff, s.regs.entryModeFlags &&& ~~~s.cfg.codes.eShiftInc)] →
    ∃ t, exec i s = .next t ∧
      t = { s with pending := .writeCsr .entryModeFlags f :: send s.cfg (s.cfg.codes.kEntryMode ||| f) .command } ∧
      t.complete.regs = { s.regs with entryModeFlags := f } ∧
      LastsAtLeast s t 204 102

/-- R140: `CREATE_CHAR`: the address command of `slot mod 8`, then the eight rows as data, row 0 first; no register
changes. -/
def Obligations.CreateCharSendsGlyph : Prop :=
  (∀ w, fieldOpcode w = 0x11 →
    decode w = .op (.createChar (fieldA w)
      ⟨w.extractLsb' 0 8, w.extractLsb' 8 8, w.extractLsb' 16 8, w.extractLsb' 24 8,
       w.extractLsb' 32 8, w.extractLsb' 40 8, w.extractLsb' 48 8, w.extractLsb' 56 8⟩)) ∧
  ∀ (s : State) (slot : Byte) (g : Glyph), s.cmdReady = true →
    ∃ t, exec (.createChar slot g) s = .next t ∧
      t = { s with
            pending :=
              send s.cfg (s.cfg.codes.kSetCgram ||| ((slot &&& 0x07) <<< 3)) .command ++
              send s.cfg g.r0 .data ++ send s.cfg g.r1 .data ++ send s.cfg g.r2 .data ++ send s.cfg g.r3 .data ++
              send s.cfg g.r4 .data ++ send s.cfg g.r5 .data ++ send s.cfg g.r6 .data ++ send s.cfg g.r7 .data } ∧
      exec (.createChar (slot &&& 0x07) g) s = .next t ∧
      LastsAtLeast s t 1836 918

/-- R142: `PUTC`: one data send of the byte, unchanged; no register changes. -/
def Obligations.PutcSendsByte : Prop :=
  (∀ w, fieldOpcode w = 0x12 → decode w = .op (.putc (fieldA w))) ∧
  ∀ (s : State) (byte : Byte), s.cmdReady = true →
    ∃ t, exec (.putc byte) s = .next t ∧ t = { s with pending := send s.cfg byte .data } ∧ LastsAtLeast s t 204 102

/-- 41_begin.md, the sequence: steps 1 and 2 are done at once and steps 3 to 9 stand in `pending`, in strict order, the handshake by
width. That acceptance performs the register writes of steps 1 and 2 is the model's reading: notes/assumptions/4.md. -/
def Obligations.BeginSequence : Prop :=
  (∀ w, fieldOpcode w = 0x01 → beginRangesHold (fieldA w) (fieldB w) = true →
    decode w = .op (.begin (fieldA w) (fieldB w) (w.getLsbD 8))) ∧
  (∀ w, fieldOpcode w = 0x01 → beginRangesHold (fieldA w) (fieldB w) = false →
    decode w = .illegal .illegalOperand) ∧
  ∀ (s : State) (columns lines : Byte) (dots5x10 : Bool) (c : Config) (k : Codes) (f : Byte),
    s.cmdReady = true → beginRangesHold columns lines = true → c = s.cfg → k = c.codes →
    f = (if c.width = .eightBit then k.fn8Bit else 0) ||| (if 1 < lines.toNat then k.fn2Line else 0)
          ||| (if dots5x10 = true ∧ lines = 1 then k.fn5x10 else 0) →
    ∃ d, exec (.begin columns lines dots5x10) s = .next
      { s with
        regs :=
          { s.regs with
            functionFlags := f
            rowOffset := ⟨k.rowBase0, k.rowBase1, columns, k.rowBase1 + columns⟩
            lineCount := lines }
        pending :=
          [.wait c.timing.tPowerOn, .setPin .rs .low, .setPin .en .low] ++
          (if c.hasRw then [.setPin .rw .low] else []) ++
          (match c.width with
           | .fourBit =>
             writeBits c k.probe8Bit 4 ++ [.wait c.timing.tHsLong] ++
             writeBits c k.probe8Bit 4 ++ [.wait c.timing.tHsLong] ++
             writeBits c k.probe8Bit 4 ++ [.wait c.timing.tHsShort] ++
             writeBits c k.commit4Bit 4
           | .eightBit =>
             send c (k.kFunction ||| f) .command ++ [.wait c.timing.tHsLong] ++
             send c (k.kFunction ||| f) .command ++ [.wait c.timing.tHsShort] ++
             send c (k.kFunction ||| f) .command) ++
          send c (k.kFunction ||| f) .command ++
          [.writeCsr .displayControlFlags k.dcDisplay] ++ send c (k.kDisplayCtrl ||| k.dcDisplay) .command ++
          send c k.kClear .command ++ [.wait c.timing.tClearHome] ++
          [.writeCsr .entryModeFlags k.eLeft] ++ send c (k.kEntryMode ||| k.eLeft) .command
        elapsed := s.elapsed + d
        draws := s.draws + 6 }

/-- R107: "After any `BEGIN`, whatever came before, the registers are a function of `WIDTH` and the operands alone", every
`BEGIN` runs the whole sequence, and a second one with the same operands repeats the trace. -/
def Obligations.BeginRunAgain : Prop :=
  ∀ (s : State) (columns lines : Byte) (dots5x10 : Bool), s.cmdReady = true → beginRangesHold columns lines = true →
    ∃ t u, exec (.begin columns lines dots5x10) s = .next t ∧
      t.complete.regs =
        { functionFlags := functionFlagsFor s.cfg lines dots5x10
          displayControlFlags := s.cfg.codes.dcDisplay
          entryModeFlags := s.cfg.codes.eLeft
          rowOffset := ⟨s.cfg.codes.rowBase0, s.cfg.codes.rowBase1, columns, s.cfg.codes.rowBase1 + columns⟩
          lineCount := lines } ∧
      t.complete.trace = s.trace ++ traceOf (beginOps s.cfg columns lines dots5x10) ∧
      exec (.begin columns lines dots5x10) t.complete = .next u ∧
      u.complete.regs = t.complete.regs ∧
      u.complete.trace = t.complete.trace ++ traceOf (beginOps s.cfg columns lines dots5x10)

/-- 41_begin.md section on the handshake and its counts: what a `BEGIN` puts on the pins, with the default constants: four
single nibbles and four sends in 4-bit mode, seven sends in 8-bit mode. -/
def Obligations.BeginTraffic : Prop :=
  ∀ (c : Config) (columns lines : Byte) (dots5x10 : Bool) (f : Byte), c.Standard →
    f = 0x20 ||| functionFlagsFor c lines dots5x10 →
    (c.width = .fourBit →
      sendList (traceOf (beginOps c columns lines dots5x10)) =
        [(.command, f), (.command, 0x0C), (.command, 0x01), (.command, 0x06)] ∧
      transferList (traceOf (beginOps c columns lines dots5x10)) =
        ([(4, 0x3), (4, 0x3), (4, 0x3), (4, 0x2), (4, f >>> 4), (4, f &&& 0x0F), (4, 0x0), (4, 0xC), (4, 0x0), (4, 0x1),
          (4, 0x0), (4, 0x6)] : List (Nat × Byte))) ∧
    (c.width = .eightBit →
      sendList (traceOf (beginOps c columns lines dots5x10)) =
        [(.command, f), (.command, f), (.command, f), (.command, f), (.command, 0x0C), (.command, 0x01),
         (.command, 0x06)] ∧
      transferList (traceOf (beginOps c columns lines dots5x10)) =
        ([(8, f), (8, f), (8, f), (8, f), (8, 0x0C), (8, 0x01), (8, 0x06)] : List (Nat × Byte)))

/-- 41_begin.md, what a register read sees during `BEGIN`: after every number `k` of steps, the function flags, the row table
and the line count are the new ones, the display-control flags new from just before their send, the entry-mode flags
new from just before theirs, and `BUSY` is 1 until the last micro-operation is over (notes/assumptions/4.md). -/
def Obligations.BeginRegisterReads : Prop :=
  ∀ (s t : State) (columns lines : Byte) (dots5x10 : Bool),
    s.cmdReady = true → s.resetScript = [] → beginRangesHold columns lines = true →
    exec (.begin columns lines dots5x10) s = .next t →
    ∃ p q : Nat, p < q ∧
      t.pending[p]? = some (.writeCsr .displayControlFlags s.cfg.codes.dcDisplay) ∧
      send s.cfg (s.cfg.codes.kDisplayCtrl ||| s.cfg.codes.dcDisplay) .command <+: t.pending.drop (p + 1) ∧
      t.pending[q]? = some (.writeCsr .entryModeFlags s.cfg.codes.eLeft) ∧
      t.pending.drop (q + 1) = send s.cfg (s.cfg.codes.kEntryMode ||| s.cfg.codes.eLeft) .command ∧
      ∀ k, k ≤ t.pending.length →
        ∃ u : State, Sys2Proof.core.run k t = .next u ∧
          u.csrRead 0x0 = functionFlagsFor s.cfg lines dots5x10 ∧
          u.csrRead 0x1 = (if k ≤ p then s.regs.displayControlFlags else s.cfg.codes.dcDisplay) ∧
          u.csrRead 0x2 = (if k ≤ q then s.regs.entryModeFlags else s.cfg.codes.eLeft) ∧
          u.csrRead 0x3 = lines ∧
          u.csrRead 0x4 = s.cfg.codes.rowBase0 ∧ u.csrRead 0x5 = s.cfg.codes.rowBase1 ∧
          u.csrRead 0x6 = columns ∧ u.csrRead 0x7 = s.cfg.codes.rowBase1 + columns ∧
          (u.csrRead 0x8).getLsbD 0 = decide (k < t.pending.length)

/-- 60_exceptions.md, misuse that is not a fault, and 20_memory.md on idempotence: a slot is used modulo 8, a 5x10 request
with more than one line is dropped, and a second identical flag operation leaves the registers as the first did and
sends the same bytes again. -/
def Obligations.SilentCorrectionsAndIdempotence : Prop :=
  (∀ (s : State) (slot : Byte) (g : Glyph),
    exec (.createChar slot g) s = exec (.createChar (slot &&& 0x07) g) s) ∧
  (∀ (s : State) (columns lines : Byte), 1 < lines.toNat →
    exec (.begin columns lines true) s = exec (.begin columns lines false) s) ∧
  (∀ (s : State) (i : Instr), s.cmdReady = true →
    i ∈ [Instr.displayOn, .displayOff, .cursorOn, .cursorOff, .blinkOn, .blinkOff, .textLtr, .textRtl, .autoscrollOn,
         .autoscrollOff] →
    ∃ t u, exec i s = .next t ∧ exec i t.complete = .next u ∧ u.complete.regs = t.complete.regs ∧
      u.pending = t.pending)

/-! ### Faults -/

/-- R152: an illegal word is recorded if it is the first since reset, is consumed, and changes nothing else; the causes and
their codes. -/
def Obligations.IllegalWordIsRecorded : Prop :=
  ∀ (s u : State) (w : CommandWord) (ws : List CommandWord) (cause : IllegalCause),
    u = s.sampleReset → u.rst = false → u.pending = [] → u.words = w :: ws → decode w = .illegal cause →
    ((cause = .illegalOpcode ∧ (fieldOpcode w = 0x00 ∨ 0x13 ≤ (fieldOpcode w).toNat)) ∨
     (cause = .illegalOperand ∧ fieldOpcode w = 0x01 ∧ (fieldA w = 0 ∨ fieldB w = 0 ∨ 4 < (fieldB w).toNat))) ∧
    step s = .next
      { u with
        words := ws
        fault :=
          if u.fault.fault then u.fault
          else ⟨true, match cause with | .illegalOpcode => 1 | .illegalOperand => 2, fieldOpcode w⟩ }

/-- 41_begin.md on operand checks: a `BEGIN` with `columns = 0`, `lines = 0` or `lines > 4` is refused at decode; that executing
such a term, which no step does, has the same effect is the model's reading: notes/assumptions/9.md. -/
def Obligations.BeginRefusesBadOperands : Prop :=
  ∀ (s : State) (columns lines : Byte) (dots5x10 : Bool),
    columns = 0 ∨ lines = 0 ∨ 4 < lines.toNat → s.cmdReady = true →
    (∀ w, fieldOpcode w = 0x01 → fieldA w = columns → fieldB w = lines → decode w = .illegal .illegalOperand) ∧
    exec (.begin columns lines dots5x10) s =
      .next { s with fault := if s.fault.fault then s.fault else ⟨true, 2, 0x01⟩ }

/-- 60_exceptions.md on return and nesting: a recorded fault stays as it is until a reset, whatever word is accepted. -/
def Obligations.FaultRecordIsSticky : Prop :=
  ∀ s t : State, step s = .next t → s.fault.fault = true → t.fault = s.fault ∨ t.rst = true

/-! ### Reset -/

/-- 10_state.md section 6: the state after reset, as the register port and the pins show it, in all four configurations. The
values are those the spec chose itself (D8), which the model follows: notes/assumptions/2.md. -/
def Obligations.ResetState : Prop :=
  ∀ (c : Config) (s : State), c.Standard → s = State.resetOf c →
    s.csrRead 0x0 = (match c.width with | .eightBit => 0x10 | .fourBit => 0x00) ∧
    s.csrRead 0x1 = 0x00 ∧ s.csrRead 0x2 = 0x00 ∧ s.csrRead 0x3 = 0x01 ∧
    s.csrRead 0x4 = 0x00 ∧ s.csrRead 0x5 = 0x40 ∧ s.csrRead 0x6 = 0x00 ∧ s.csrRead 0x7 = 0x40 ∧
    s.csrRead 0x8 = 0x00 ∧ s.csrRead 0x9 = 0x00 ∧ s.csrRead 0xA = 0x00 ∧
    s.csrRead 0xB =
      (match c.width with | .eightBit => 0x01 | .fourBit => 0x00) ||| (if c.hasRw then 0x02 else 0x00) ∧
    s.pending = [] ∧ s.pins.rs = .unknown ∧ s.pins.en = .unknown ∧
    s.pins.rw = (if c.hasRw then some .unknown else none) ∧
    s.pins.db = List.replicate (match c.width with | .eightBit => 8 | .fourBit => 4) .unknown ∧
    s.cmdReady = true

/-- R170, R171: `rst` asserted at any moment: `pending` is discarded, every piece of the block's state takes its reset value,
no pin event happens, and a `Wait` in progress is cut short. How the ended run is recorded is notes/assumptions/8.md. -/
def Obligations.ResetDiscardsOperation : Prop :=
  ∀ (s : State) (cut : Option Nat) (rest : List ResetInput),
    s.rst = false → s.resetScript = .assert cut :: rest →
    step s = .next
      { State.resetOf s.cfg with
        rst := true
        words := s.words
        resetScript := rest
        draws := s.draws
        endedTraces := s.endedTraces ++
          [s.trace ++ (match cut, s.pending with | some d, .wait n :: _ => [.cutWait n d] | _, _ => [])] }

/-- 70_reset_and_hazards.md section 1: while `rst` stays asserted, whether the host does nothing, has no further move or
asserts it again, the block stays in the reset state and takes no word; when it is released, the first word offered is
taken, and with none offered the block is idle. How the host moves `rst` is notes/assumptions/18.md. -/
def Obligations.ResetHoldsUntilReleased : Prop :=
  ∀ (s : State) (rest : List ResetInput), s.rst = true →
    (s.resetScript = [] ∧ rest = [] ∨ s.resetScript = .quiet :: rest ∨ (∃ d, s.resetScript = .assert d :: rest) →
      ∃ t, step s = .next t ∧ t.rst = true ∧ t.atReset = true ∧ t.words = s.words ∧ t.cmdReady = false ∧
        t.resetScript = rest ∧ t.endedTraces = s.endedTraces) ∧
    (s.resetScript = .release :: rest → s.pending = [] →
      (∀ w ws, s.words = w :: ws → step s = acceptWord w { s with rst := false, words := ws, resetScript := rest }) ∧
      (s.words = [] →
        ∃ t, step s = .next t ∧ t = { s with rst := false, resetScript := rest } ∧ t.cmdReady = true))

/-- 70_reset_and_hazards.md on interruption: a reset, between micro-operations or inside a `Wait`, leaves the controller
having seen a prefix of the trace the operation would have had; a `Wait` that it cuts stands behind it as a cut wait. The
record of an ended run is notes/assumptions/8.md. -/
def Obligations.CutTraceIsPrefix : Prop :=
  ∀ (s t : State) (cut : Option Nat) (rest : List ResetInput),
    s.rst = false → s.resetScript = .assert cut :: rest → step s = .next t →
    ∃ cutWait, t.endedTraces = s.endedTraces ++ [s.trace ++ cutWait] ∧
      (∀ d n ops, cut = some d → s.pending = .wait n :: ops → cutWait = [.cutWait n d]) ∧
      (cut = none ∨ (∀ n ops, s.pending ≠ .wait n :: ops) → cutWait = []) ∧
      s.trace <+: s.complete.trace ∧ s.complete.trace = s.trace ++ traceOf s.pending ∧
      (traceOf s.pending ≠ [] → s.trace ≠ s.complete.trace) ∧ t.trace = [] ∧ t.pending = []

/-! ### Ports -/

/-- 10_state.md section 3: the register port in every state: the stored registers by number, `STATUS` and `CONFIG` bit by bit,
and the reserved numbers as 0. -/
def Obligations.RegisterPortMap : Prop :=
  ∀ s : State,
    s.csrRead 0x0 = s.regs.functionFlags ∧ s.csrRead 0x1 = s.regs.displayControlFlags ∧
    s.csrRead 0x2 = s.regs.entryModeFlags ∧ s.csrRead 0x3 = s.regs.lineCount ∧
    s.csrRead 0x4 = s.regs.rowOffset.row0 ∧ s.csrRead 0x5 = s.regs.rowOffset.row1 ∧
    s.csrRead 0x6 = s.regs.rowOffset.row2 ∧ s.csrRead 0x7 = s.regs.rowOffset.row3 ∧
    (s.csrRead 0x8).getLsbD 0 = decide (s.pending ≠ []) ∧ (s.csrRead 0x8).getLsbD 1 = s.fault.fault ∧
    s.csrRead 0x8 &&& 0xFC = 0 ∧
    s.csrRead 0x9 = s.fault.cause ∧ s.csrRead 0xA = s.fault.opcode ∧
    (s.csrRead 0xB).getLsbD 0 = decide (s.cfg.width = .eightBit) ∧ (s.csrRead 0xB).getLsbD 1 = s.cfg.hasRw ∧
    s.csrRead 0xB &&& 0xFC = 0 ∧
    (∀ n : BitVec 4, 0xC ≤ n.toNat → s.csrRead n = 0x00) ∧
    (s.rst = false → s.cmdReady = !(s.csrRead 0x8).getLsbD 0)

/-! ### Whole-machine rules -/

/-- 10_state.md section 6, 60_exceptions.md: the invariant holds right after reset, in every configuration. -/
def Obligations.ResetSatisfiesInvariant : Prop := ∀ c : Config, c.Standard → Inv (State.resetOf c)

/-- 10_state.md sections 2 to 4, 60_exceptions.md R152 (which opcodes a fault record can hold), 70_reset_and_hazards.md: every
step keeps the registers, the latches, the fault record and `pending` legal, the operation in progress ending with its
settle time and `EN` low, and the reset state while `rst` is asserted. Two clauses rest on the model's reading of
41_begin.md R109, notes/assumptions/4.md: that `pending` holds no write of the function flags, the row table or the line
count, and that `N` agrees with the line count in the middle of a `BEGIN` too. `Inv` has the default constants
(notes/assumptions/11.md). -/
def Obligations.StepKeepsInvariant : Prop := ∀ s t : State, Inv s → step s = .next t → Inv t

/-- The mirror holds right after reset: nothing has been sent. -/
def Obligations.ResetMirrors : Prop := ∀ c : Config, MirrorsWhenDone (State.resetOf c)

/-- 10_state.md, the mirror invariant: every step keeps each flag register equal to what was last sent to the matching
controller register, once the operation in progress is over. -/
def Obligations.StepKeepsMirror : Prop :=
  ∀ s t : State, Inv s → MirrorsWhenDone s → step s = .next t → MirrorsWhenDone t

/-- 10_state.md, the mirror invariant as the rule words it: "whenever `pending` is empty and at least one `BEGIN` has completed
since reset", the last sends of the three forms exist and carry the registers. -/
def Obligations.MirrorAfterBegin : Prop :=
  ∀ s : State, Inv s → MirrorsWhenDone s → s.pending = [] → Begun s →
    lastCommand isFunctionSet (sendList s.trace) = some (0x20 ||| s.regs.functionFlags) ∧
    lastCommand isDisplayControl (sendList s.trace) = some (0x08 ||| s.regs.displayControlFlags) ∧
    lastCommand isEntryMode (sendList s.trace) = some (0x04 ||| s.regs.entryModeFlags)

/-- 10_state.md on acceptance and on the atomic view: an operation is its list of micro-operations, a function of the
configuration, the registers and the operands; run to its end it has performed exactly that list. -/
def Obligations.OperationPerformsItsList : Prop :=
  ∀ (s : State) (i : Instr), s.cmdReady = true → i.wellFormed = true →
    ∃ t, exec i s = .next t ∧ t.complete = s.performAll (opsOf s.cfg s.regs i) ∧
      t.complete.trace = s.trace ++ traceOf (opsOf s.cfg s.regs i) ∧
      t.trace = s.trace ∧ t.pins = s.pins ∧ t.fault = s.fault ∧ t.cfg = s.cfg ∧ t.words = s.words ∧
      t.complete.fault = s.fault ∧ t.complete.words = s.words ∧ t.complete.endedTraces = s.endedTraces

/-- 10_state.md on the atomic view, 70_reset_and_hazards.md on completion: without reset, stepping reaches the end of the
operation in progress, in as many steps as it has micro-operations left; and an accepted word reaches the state the
atomic view gives. -/
def Obligations.SteppingReachesAtomicView : Prop :=
  (∀ s : State, s.rst = false → s.resetScript = [] →
    Sys2Proof.core.run s.pending.length s = .next s.complete) ∧
  (∀ (s u : State) (w : CommandWord) (ws : List CommandWord) (i : Instr),
    s.rst = false → s.resetScript = [] → s.pending = [] → s.words = w :: ws → decode w = .op i →
    execAtomic i { s with words := ws } = .next u → ∃ n, Sys2Proof.core.run n s = .next u)

/-- 10_state.md: "no operation reads a pin, the time": states that differ only in latches, trace and time take steps that
agree likewise, and add the same events. -/
def Obligations.PinsTraceAndTimeAreNeverRead : Prop :=
  ∀ s t s' t' : State, SameLogic s t → step s = .next s' → step t = .next t' →
    SameLogic s' t' ∧
    ((∃ events, s'.trace = s.trace ++ events ∧ t'.trace = t.trace ++ events) ∨ (s'.trace = [] ∧ t'.trace = []))

/-- 20_memory.md, which operation reaches what: only `BEGIN` writes the function flags, the row table and the line count; only
it and the six display operations the display-control flags; only it and the four entry-mode operations the entry-mode
flags. -/
def Obligations.RegisterWriters : Prop :=
  ∀ (s : State) (i : Instr), s.cmdReady = true → i.wellFormed = true →
    ∃ t, exec i s = .next t ∧
      (i.opcode ≠ 0x01 →
        t.complete.regs.functionFlags = s.regs.functionFlags ∧ t.complete.regs.rowOffset = s.regs.rowOffset ∧
        t.complete.regs.lineCount = s.regs.lineCount) ∧
      (i.opcode ∉ [0x01, 0x05, 0x06, 0x07, 0x08, 0x09, 0x0A] →
        t.complete.regs.displayControlFlags = s.regs.displayControlFlags) ∧
      (i.opcode ∉ [0x01, 0x0D, 0x0E, 0x0F, 0x10] → t.complete.regs.entryModeFlags = s.regs.entryModeFlags)

/-- 30_encoding.md part 2: the command bytes a block can emit, with the default constants: the thirty listed values and those
from 0x80 on; and of the function-set bytes only those of the block's width. -/
def Obligations.EmittedCommandBytes : Prop :=
  ∀ (s : State) (i : Instr) (b : Byte), Inv s → i.wellFormed = true →
    (.command, b) ∈ sendList (traceOf (opsOf s.cfg s.regs i)) →
    (0x80 ≤ b.toNat ∨
      b ∈ [0x01, 0x02, 0x04, 0x05, 0x06, 0x07, 0x08, 0x09, 0x0A, 0x0B, 0x0C, 0x0D, 0x0E, 0x0F, 0x18, 0x1C,
           0x20, 0x24, 0x28, 0x30, 0x34, 0x38, 0x40, 0x48, 0x50, 0x58, 0x60, 0x68, 0x70, 0x78]) ∧
    (s.cfg.width = .fourBit → b ∉ [0x30, 0x34, 0x38]) ∧ (s.cfg.width = .eightBit → b ∉ [0x20, 0x24, 0x28])

/-- 70_reset_and_hazards.md section 4: the least duration and the number of micro-operations of every operation, with the
default constants, by width and with or without a read/write pin. -/
def Obligations.LeastDurationsAndCounts : Prop :=
  ∀ (s : State) (i : Instr) (n : Nat), s.cfg.Standard → s.cmdReady = true → i.wellFormed = true →
    n = (match s.cfg.width with | .fourBit => 15 | .eightBit => 8) + (if s.cfg.hasRw then 1 else 0) →
    ∃ t, exec i s = .next t ∧ s.elapsed + leastTime (opsOf s.cfg s.regs i) ≤ t.complete.elapsed ∧
      leastTime (opsOf s.cfg s.regs i) =
        (match i.opcode.toNat, s.cfg.width with
         | 0x01, .fourBit => 62374
         | 0x01, .eightBit => 57364
         | 0x02, .fourBit => 2204
         | 0x02, .eightBit => 2102
         | 0x03, .fourBit => 2204
         | 0x03, .eightBit => 2102
         | 0x11, .fourBit => 1836
         | 0x11, .eightBit => 918
         | _, .fourBit => 204
         | _, .eightBit => 102) ∧
      (opsOf s.cfg s.regs i).length =
        (match i.opcode.toNat, s.cfg.width, s.cfg.hasRw with
         | 0x01, .fourBit, true => 108
         | 0x01, .fourBit, false => 103
         | 0x01, .eightBit, true => 78
         | 0x01, .eightBit, false => 70
         | 0x02, _, _ => n + 1
         | 0x03, _, _ => n + 1
         | 0x04, _, _ => n
         | 0x0B, _, _ => n
         | 0x0C, _, _ => n
         | 0x11, _, _ => 9 * n
         | 0x12, _, _ => n
         | _, _, _ => n + 1)

/-- 70_reset_and_hazards.md, no gap between operations: every operation's last micro-operation is a `Wait` of at least
`T_SETTLE`, whatever the registers hold. -/
def Obligations.OperationsEndSettled : Prop :=
  ∀ (c : Config) (r : Regs) (i : Instr), c.Standard → endsSettled c (opsOf c r i) = true

/-! ### Construction, text output, several blocks -/

/-- 60_exceptions.md on construction: a block exists exactly when both mandatory pins are there and the pin count matches the
width; it starts in reset; everything else is a configuration error. -/
def Obligations.ConstructionFailsFast : Prop :=
  ∀ p : PinPlan,
    ((p.registerSelect ≠ none ∧ p.enable ≠ none ∧
        p.data.length = (match p.width with | .fourBit => 4 | .eightBit => 8)) →
      State.construct p = .next (State.resetOf { width := p.width, hasRw := p.readWrite.isSome })) ∧
    (p.registerSelect = none ∨ p.enable = none ∨
        p.data.length ≠ (match p.width with | .fourBit => 4 | .eightBit => 8) →
      ∃ e, State.construct p = .fault (.configError e))

/-- 45_data_commands.md on `PRINT`: one data-mode send per byte of the text, first byte first, the empty text none; its words
are `n` in number and its least duration is `n` sends. -/
def Obligations.PrintSendsTextInOrder : Prop :=
  ∀ (c : Config) (r : Regs) (text : List Byte) (ops : List MicroOp), c.Standard →
    ops = (Pseudo.print text).expand.flatMap (opsOf c r) →
    (Pseudo.print text).expand.length = text.length ∧
    sendList (traceOf ops) = text.map (fun b => (SendMode.data, b)) ∧
    leastTime ops = text.length * (match c.width with | .fourBit => 204 | .eightBit => 102)

/-- 60_exceptions.md on several blocks: a step of one block of a system is that block's step and leaves every other block as
it was. -/
def Obligations.BlocksAreIndependent : Prop :=
  ∀ (k : Nat) (blocks : List State),
    ∃ blocks', stepBlock k blocks = .next blocks' ∧ blocks'.length = blocks.length ∧
      ∀ (j : Nat) (s : State), blocks[j]? = some s →
        (j ≠ k → blocks'[j]? = some s) ∧ (j = k → ∃ t, step s = .next t ∧ blocks'[j]? = some t)

/-! ### At rest -/

/-- 10_state.md on the end of a run: out of reset, with nothing pending and no word offered, a step changes nothing beyond the
host's move on `rst`, and the run is over. That it is a next state and not a stop is notes/assumptions/24.md. -/
def Obligations.IdleStepChangesNothing : Prop :=
  ∀ s u : State, u = s.sampleReset → u.rst = false → u.pending = [] → u.words = [] →
    step s = .next u ∧ u.runOver = true ∧ u.cmdReady = true ∧ (s.resetScript = [] → u = s)
end

