-- ==== Sys2Proof/Laws/Decode.lean ====
section
/-! SUPPORT. The fields of a word put together from an opcode, an operand byte and an operand field (30_encoding.md R70). -/

namespace Sys2Proof

/-- Bit `i` of a word, by the field it lies in. -/
theorem getLsbD_word (o a : Byte) (g : BitVec 64) (i : Nat) :
    BitVec.getLsbD (w := 80) (o ++ a ++ g) i =
      if i < 64 then g.getLsbD i else if i - 64 < 8 then a.getLsbD (i - 64) else o.getLsbD (i - 64 - 8) := by
  refine (BitVec.getLsbD_append (x := o ++ a) (y := g) (i := i)).trans ?_
  rw [BitVec.getLsbD_append (x := o) (y := a)]

theorem fieldOpcode_append (o a : Byte) (g : BitVec 64) : fieldOpcode (o ++ a ++ g) = o := by
  apply BitVec.eq_of_getLsbD_eq
  intro i hi
  rw [fieldOpcode, BitVec.getLsbD_extractLsb', getLsbD_word]
  simp [hi, show ¬ 72 + i < 64 by omega, show ¬ 72 + i - 64 < 8 by omega, show 72 + i - 64 - 8 = i by omega]

theorem fieldA_append (o a : Byte) (g : BitVec 64) : fieldA (o ++ a ++ g) = a := by
  apply BitVec.eq_of_getLsbD_eq
  intro i hi
  rw [fieldA, BitVec.getLsbD_extractLsb', getLsbD_word]
  simp [hi]

theorem fieldG_append (o a : Byte) (g : BitVec 64) : fieldG (o ++ a ++ g) = g := by
  apply BitVec.eq_of_getLsbD_eq
  intro i hi
  rw [fieldG, BitVec.getLsbD_extractLsb', getLsbD_word]
  simp [hi]

end Sys2Proof
end

