-- ==== Sys2Proof/Laws/State.lean ====
section
/-! SUPPORT. One lemma per field per update of State, so that no later proof unfolds a record update. -/

namespace Sys2Proof.Machine

/-! ### Performing one micro-operation -/

@[simp] theorem State.perform_cfg (s : State) (op : MicroOp) : (s.perform op).cfg = s.cfg := rfl
@[simp] theorem State.perform_regs (s : State) (op : MicroOp) : (s.perform op).regs = op.onRegs s.regs := rfl
@[simp] theorem State.perform_fault (s : State) (op : MicroOp) : (s.perform op).fault = s.fault := rfl
@[simp] theorem State.perform_pins (s : State) (op : MicroOp) : (s.perform op).pins = op.onPins s.pins := rfl
@[simp] theorem State.perform_pending (s : State) (op : MicroOp) : (s.perform op).pending = s.pending := rfl
@[simp] theorem State.perform_rst (s : State) (op : MicroOp) : (s.perform op).rst = s.rst := rfl
@[simp] theorem State.perform_words (s : State) (op : MicroOp) : (s.perform op).words = s.words := rfl
@[simp] theorem State.perform_resetScript (s : State) (op : MicroOp) :
    (s.perform op).resetScript = s.resetScript := rfl
@[simp] theorem State.perform_trace (s : State) (op : MicroOp) : (s.perform op).trace = s.trace ++ op.events := rfl
@[simp] theorem State.perform_endedTraces (s : State) (op : MicroOp) :
    (s.perform op).endedTraces = s.endedTraces := rfl
@[simp] theorem State.perform_elapsed (s : State) (op : MicroOp) :
    (s.perform op).elapsed = s.elapsed + op.minTime + Config.freeTime s.draws := rfl
@[simp] theorem State.perform_draws (s : State) (op : MicroOp) : (s.perform op).draws = s.draws + 1 := rfl

/-! ### Reset -/

@[simp] theorem State.holdReset_cfg (s : State) : s.holdReset.cfg = s.cfg := rfl
@[simp] theorem State.holdReset_regs (s : State) : s.holdReset.regs = Regs.afterReset s.cfg := rfl
@[simp] theorem State.holdReset_fault (s : State) : s.holdReset.fault = FaultRecord.afterReset := rfl
@[simp] theorem State.holdReset_pins (s : State) : s.holdReset.pins = Pins.afterReset s.cfg := rfl
@[simp] theorem State.holdReset_pending (s : State) : s.holdReset.pending = [] := rfl
@[simp] theorem State.holdReset_rst (s : State) : s.holdReset.rst = s.rst := rfl
@[simp] theorem State.holdReset_words (s : State) : s.holdReset.words = s.words := rfl
@[simp] theorem State.holdReset_resetScript (s : State) : s.holdReset.resetScript = s.resetScript := rfl
@[simp] theorem State.holdReset_trace (s : State) : s.holdReset.trace = [] := rfl
@[simp] theorem State.holdReset_endedTraces (s : State) : s.holdReset.endedTraces = s.endedTraces := rfl
@[simp] theorem State.holdReset_elapsed (s : State) : s.holdReset.elapsed = 0 := rfl
@[simp] theorem State.holdReset_draws (s : State) : s.holdReset.draws = s.draws := rfl

/-! ### Recording a fault: only the fault record changes -/

section
variable (s : State) (c : IllegalCause) (o : Byte)
@[simp] theorem State.raiseIllegal_cfg : (s.raiseIllegal c o).cfg = s.cfg := by unfold raiseIllegal; split <;> rfl
@[simp] theorem State.raiseIllegal_regs : (s.raiseIllegal c o).regs = s.regs := by unfold raiseIllegal; split <;> rfl
@[simp] theorem State.raiseIllegal_pins : (s.raiseIllegal c o).pins = s.pins := by unfold raiseIllegal; split <;> rfl
@[simp] theorem State.raiseIllegal_pending : (s.raiseIllegal c o).pending = s.pending := by
  unfold raiseIllegal; split <;> rfl
@[simp] theorem State.raiseIllegal_rst : (s.raiseIllegal c o).rst = s.rst := by unfold raiseIllegal; split <;> rfl
@[simp] theorem State.raiseIllegal_words : (s.raiseIllegal c o).words = s.words := by
  unfold raiseIllegal; split <;> rfl
@[simp] theorem State.raiseIllegal_resetScript : (s.raiseIllegal c o).resetScript = s.resetScript := by
  unfold raiseIllegal; split <;> rfl
@[simp] theorem State.raiseIllegal_trace : (s.raiseIllegal c o).trace = s.trace := by
  unfold raiseIllegal; split <;> rfl
@[simp] theorem State.raiseIllegal_endedTraces : (s.raiseIllegal c o).endedTraces = s.endedTraces := by
  unfold raiseIllegal; split <;> rfl
@[simp] theorem State.raiseIllegal_elapsed : (s.raiseIllegal c o).elapsed = s.elapsed := by
  unfold raiseIllegal; split <;> rfl
@[simp] theorem State.raiseIllegal_draws : (s.raiseIllegal c o).draws = s.draws := by
  unfold raiseIllegal; split <;> rfl
end

/-! ### Writing one register -/

section
variable (r : Regs) (v : Byte)
@[simp] theorem Regs.write_functionFlags : r.write .functionFlags v = { r with functionFlags := v } := rfl
@[simp] theorem Regs.write_displayControlFlags :
    r.write .displayControlFlags v = { r with displayControlFlags := v } := rfl
@[simp] theorem Regs.write_entryModeFlags : r.write .entryModeFlags v = { r with entryModeFlags := v } := rfl
@[simp] theorem Regs.write_lineCount : r.write .lineCount v = { r with lineCount := v } := rfl
@[simp] theorem Regs.write_rowOffset (row : Fin 4) :
    r.write (.rowOffset row) v = { r with rowOffset := r.rowOffset.setEntry row v } := rfl
end

/-! ### Writing latches -/

section
variable (p : Pins)
@[simp] theorem Pins.setLevel_db (pin : Pin) (l : Level) : (p.setLevel pin l).db = p.db := by cases pin <;> rfl
@[simp] theorem Pins.setLevel_rs_self (l : Level) : (p.setLevel .rs l).rs = .holds l := rfl
@[simp] theorem Pins.setLevel_en_self (l : Level) : (p.setLevel .en l).en = .holds l := rfl
@[simp] theorem Pins.setLevel_rs_en (l : Level) : (p.setLevel .rs l).en = p.en := rfl
@[simp] theorem Pins.setLevel_rs_rw (l : Level) : (p.setLevel .rs l).rw = p.rw := rfl
@[simp] theorem Pins.setLevel_rw_self (l : Level) : (p.setLevel .rw l).rw = p.rw.map fun _ => .holds l := rfl
@[simp] theorem Pins.setLevel_rw_rs (l : Level) : (p.setLevel .rw l).rs = p.rs := rfl
@[simp] theorem Pins.setLevel_rw_en (l : Level) : (p.setLevel .rw l).en = p.en := rfl
@[simp] theorem Pins.setLevel_en_rs (l : Level) : (p.setLevel .en l).rs = p.rs := rfl
@[simp] theorem Pins.setLevel_en_rw (l : Level) : (p.setLevel .en l).rw = p.rw := rfl
@[simp] theorem Pins.driveData_rs (n : Nat) (v : Byte) : (p.driveData n v).rs = p.rs := rfl
@[simp] theorem Pins.driveData_rw (n : Nat) (v : Byte) : (p.driveData n v).rw = p.rw := rfl
@[simp] theorem Pins.driveData_en (n : Nat) (v : Byte) : (p.driveData n v).en = p.en := rfl
@[simp] theorem Pins.driveData_length (n : Nat) (v : Byte) : (p.driveData n v).db.length = p.db.length := by
  simp [driveData]
end

end Sys2Proof.Machine
end

