-- ==== Sys2Proof/Laws/Ops.lean ====
section
/-! SUPPORT. What each shared operation can do, said once: running a list of micro-operations, accepting an operation, the
moves on `rst`, the block's step. -/

namespace Sys2Proof.Machine

/-! ### Running a list of micro-operations -/

@[simp] theorem State.performAll_nil (s : State) : s.performAll [] = s := rfl

@[simp] theorem State.performAll_cons (s : State) (op : MicroOp) (ops : List MicroOp) :
    s.performAll (op :: ops) = (s.perform op).performAll ops := rfl

theorem State.performAll_append (s : State) (xs ys : List MicroOp) :
    s.performAll (xs ++ ys) = (s.performAll xs).performAll ys := by
  induction xs generalizing s with
  | nil => rfl
  | cons x xs ih => exact ih (s.perform x)

/-- The fields no micro-operation touches. -/
theorem State.performAll_frame (ops : List MicroOp) (s : State) :
    (s.performAll ops).cfg = s.cfg ∧ (s.performAll ops).fault = s.fault ∧
    (s.performAll ops).pending = s.pending ∧ (s.performAll ops).rst = s.rst ∧
    (s.performAll ops).words = s.words ∧ (s.performAll ops).resetScript = s.resetScript ∧
    (s.performAll ops).endedTraces = s.endedTraces := by
  induction ops generalizing s with
  | nil => simp
  | cons op ops ih => simpa using ih (s.perform op)

@[simp] theorem State.performAll_cfg (s : State) (ops : List MicroOp) : (s.performAll ops).cfg = s.cfg :=
  (s.performAll_frame ops).1
@[simp] theorem State.performAll_fault (s : State) (ops : List MicroOp) : (s.performAll ops).fault = s.fault :=
  (s.performAll_frame ops).2.1
@[simp] theorem State.performAll_pending (s : State) (ops : List MicroOp) : (s.performAll ops).pending = s.pending :=
  (s.performAll_frame ops).2.2.1
@[simp] theorem State.performAll_rst (s : State) (ops : List MicroOp) : (s.performAll ops).rst = s.rst :=
  (s.performAll_frame ops).2.2.2.1
@[simp] theorem State.performAll_words (s : State) (ops : List MicroOp) : (s.performAll ops).words = s.words :=
  (s.performAll_frame ops).2.2.2.2.1
@[simp] theorem State.performAll_resetScript (s : State) (ops : List MicroOp) :
    (s.performAll ops).resetScript = s.resetScript := (s.performAll_frame ops).2.2.2.2.2.1
@[simp] theorem State.performAll_endedTraces (s : State) (ops : List MicroOp) :
    (s.performAll ops).endedTraces = s.endedTraces := (s.performAll_frame ops).2.2.2.2.2.2

@[simp] theorem State.performAll_regs (ops : List MicroOp) (s : State) :
    (s.performAll ops).regs = ops.foldl (fun r op => op.onRegs r) s.regs := by
  induction ops generalizing s with
  | nil => rfl
  | cons op ops ih => simpa using ih (s.perform op)

@[simp] theorem State.performAll_pins (ops : List MicroOp) (s : State) :
    (s.performAll ops).pins = ops.foldl (fun p op => op.onPins p) s.pins := by
  induction ops generalizing s with
  | nil => rfl
  | cons op ops ih => simpa using ih (s.perform op)

@[simp] theorem State.performAll_trace (ops : List MicroOp) (s : State) :
    (s.performAll ops).trace = s.trace ++ traceOf ops := by
  induction ops generalizing s with
  | nil => simp [traceOf]
  | cons op ops ih => simp [ih, traceOf]

@[simp] theorem State.performAll_draws (ops : List MicroOp) (s : State) :
    (s.performAll ops).draws = s.draws + ops.length := by
  induction ops generalizing s with
  | nil => rfl
  | cons op ops ih => simp [ih]; omega

/-- Waits are lower bounds: a list takes at least the sum of its waits. -/
theorem State.leastTime_le_performAll (ops : List MicroOp) (s : State) :
    s.elapsed + leastTime ops ≤ (s.performAll ops).elapsed := by
  induction ops generalizing s with
  | nil => simp [leastTime]
  | cons op ops ih =>
    have h := ih (s.perform op)
    simp only [State.perform_elapsed] at h
    simp only [State.performAll_cons, leastTime]
    omega

@[simp] theorem leastTime_append (xs ys : List MicroOp) : leastTime (xs ++ ys) = leastTime xs + leastTime ys := by
  induction xs with
  | nil => simp [leastTime]
  | cons x xs ih => simp [leastTime, ih]; omega

@[simp] theorem traceOf_append (xs ys : List MicroOp) : traceOf (xs ++ ys) = traceOf xs ++ traceOf ys := by
  simp [traceOf]

/-! ### Completing the operation in progress -/

theorem State.complete_of_idle (s : State) (h : s.pending = []) : s.complete = s := by
  cases s; simp_all [State.complete]

@[simp] theorem State.complete_pending (s : State) : s.complete.pending = [] := by simp [State.complete]

/-- Performing the first pending micro-operation does not change where the operation ends. -/
theorem State.complete_step (s : State) (op : MicroOp) (rest : List MicroOp) (h : s.pending = op :: rest) :
    (State.perform { s with pending := rest } op).complete = s.complete := by
  simp [State.complete, h, State.perform]

/-! ### Accepting an operation -/

theorem State.cmdReady_iff (s : State) : s.cmdReady = true ↔ s.rst = false ∧ s.pending = [] := by
  simp [State.cmdReady, State.busy]

/-- Acceptance in a ready state, and in one that is not. -/
theorem State.accept_ready (s : State) (ops : List MicroOp) (h : s.cmdReady = true) :
    s.accept ops = { s with pending := ops } := by simp [State.accept, h]

theorem State.accept_not_ready (s : State) (ops : List MicroOp) (h : s.cmdReady = false) : s.accept ops = s := by
  simp [State.accept, h]

theorem State.acceptAfter_ready (s : State) (atOnce rest : List MicroOp) (h : s.cmdReady = true) :
    s.acceptAfter atOnce rest = { s.performAll atOnce with pending := rest } := by simp [State.acceptAfter, h]

theorem State.acceptAfter_not_ready (s : State) (atOnce rest : List MicroOp) (h : s.cmdReady = false) :
    s.acceptAfter atOnce rest = s := by simp [State.acceptAfter, h]

/-- An operation accepted and run to its end is its whole list performed (R37). -/
theorem State.complete_accept (s : State) (ops : List MicroOp) (h : s.cmdReady = true) :
    (s.accept ops).complete = s.performAll ops := by
  have hp := ((State.cmdReady_iff s).mp h).2
  cases s; simp_all [State.accept_ready, State.complete]

theorem State.complete_acceptAfter (s : State) (atOnce rest : List MicroOp) (h : s.cmdReady = true) :
    (s.acceptAfter atOnce rest).complete = s.performAll (atOnce ++ rest) := by
  have hp : (s.performAll atOnce).pending = [] := by simpa using ((State.cmdReady_iff s).mp h).2
  rw [State.acceptAfter_ready s atOnce rest h, State.performAll_append, State.complete, ← hp]

/-! ### The step -/

/-- The four things one step of the block can do. -/
theorem blockStep_cases (s : State) :
    (s.rst = true ∧ blockStep s = .next s.holdReset) ∨
    (s.rst = false ∧ ∃ op rest, s.pending = op :: rest ∧
      blockStep s = .next (State.perform { s with pending := rest } op)) ∨
    (s.rst = false ∧ s.pending = [] ∧ s.words = [] ∧ blockStep s = .next s) ∨
    (s.rst = false ∧ s.pending = [] ∧ ∃ w ws, s.words = w :: ws ∧
      blockStep s = acceptWord w { s with words := ws }) := by
  unfold blockStep
  cases hr : s.rst
  · cases hp : s.pending with
    | cons op rest => exact .inr (.inl ⟨rfl, op, rest, rfl, by simp⟩)
    | nil =>
      cases hw : s.words with
      | nil => exact .inr (.inr (.inl ⟨rfl, rfl, rfl, by simp⟩))
      | cons w ws => exact .inr (.inr (.inr ⟨rfl, rfl, w, ws, rfl, by simp⟩))
  · exact .inl ⟨rfl, by simp⟩

/-- The four moves of the host on `rst`. -/
theorem State.sampleReset_cases (s : State) :
    (s.resetScript = [] ∧ s.sampleReset = s) ∨
    (∃ rest, s.resetScript = .quiet :: rest ∧ s.sampleReset = { s with resetScript := rest }) ∨
    (∃ d rest, s.resetScript = .assert d :: rest ∧
      s.sampleReset = State.assertReset { s with resetScript := rest } d) ∨
    (∃ rest, s.resetScript = .release :: rest ∧ s.sampleReset = { s with resetScript := rest, rst := false }) := by
  unfold State.sampleReset
  cases h : s.resetScript with
  | nil => exact .inl ⟨rfl, rfl⟩
  | cons m rest =>
    cases m with
    | quiet => exact .inr (.inl ⟨rest, rfl, rfl⟩)
    | assert d => exact .inr (.inr (.inl ⟨d, rest, rfl, rfl⟩))
    | release => exact .inr (.inr (.inr ⟨rest, rfl, rfl⟩))

end Sys2Proof.Machine
end

