-- ==== Sys2Proof/Laws/PerInstr.lean ====
section
/-! SUPPORT. Facts proved once per constructor of Instr. EncodedFields: the word of an instruction carries its opcode, its
first operand and its operand field in the places of 30_encoding.md R70. -/

namespace Sys2Proof.Laws.EncodedFields

/-- The three fields of the encoded word. -/
def Statement (i : Instr) : Prop :=
  fieldOpcode (encode i) = i.opcode ∧ fieldA (encode i) = i.operandA ∧ fieldG (encode i) = i.operandG

theorem holds (i : Instr) : Statement i :=
  ⟨fieldOpcode_append _ _ _, fieldA_append _ _ _, fieldG_append _ _ _⟩

theorem begin (columns lines : Byte) (dots5x10 : Bool) : Statement (.begin columns lines dots5x10) := holds _
theorem clear : Statement .clear := holds _
theorem home : Statement .home := holds _
theorem setCursor (col row : Byte) : Statement (.setCursor col row) := holds _
theorem displayOn : Statement .displayOn := holds _
theorem displayOff : Statement .displayOff := holds _
theorem cursorOn : Statement .cursorOn := holds _
theorem cursorOff : Statement .cursorOff := holds _
theorem blinkOn : Statement .blinkOn := holds _
theorem blinkOff : Statement .blinkOff := holds _
theorem scrollLeft : Statement .scrollLeft := holds _
theorem scrollRight : Statement .scrollRight := holds _
theorem textLtr : Statement .textLtr := holds _
theorem textRtl : Statement .textRtl := holds _
theorem autoscrollOn : Statement .autoscrollOn := holds _
theorem autoscrollOff : Statement .autoscrollOff := holds _
theorem createChar (slot : Byte) (glyph : Glyph) : Statement (.createChar slot glyph) := holds _
theorem putc (byte : Byte) : Statement (.putc byte) := holds _

end Sys2Proof.Laws.EncodedFields
end

