-- ==== Sys2Proof/Laws/Transfer.lean ====
section
/-! SUPPORT. The pin primitives as the operations use them: what a bit-writer call and a `Send` add to time, registers and
length; and every well-formed operation as the acceptance of its list. -/

namespace Sys2Proof.Machine

/-- The bits a transfer of arity `n` carries (20_memory.md R54). -/
theorem lowBits_getLsbD (n i : Nat) (v : Byte) : (lowBits n v).getLsbD i = (decide (i < n) && v.getLsbD i) := by
  by_cases h : i < 8
  · simp [lowBits, h]
  · simp [lowBits, h, BitVec.getLsbD_of_ge v i (by omega)]

/-- The values a `Send` drives (R92). -/
theorem lowBits_eight (v : Byte) : lowBits 8 v = v := by simp [lowBits]

theorem lowBits_four (v : Byte) : lowBits 4 v = v &&& 0x0F := by revert v; decide

theorem lowBits_highNibble (v : Byte) : lowBits 4 (highNibble v) = highNibble v := by revert v; decide

/-! ### Time -/

@[simp] theorem leastTime_writeBits (c : Config) (v : Byte) (n : Nat) :
    leastTime (writeBits c v n) = c.timing.tEnSetup + c.timing.tEnHigh + c.timing.tSettle := by
  simp [writeBits, leastTime, MicroOp.minTime]; omega

@[simp] theorem leastTime_rwLow (c : Config) : leastTime (rwLow c) = 0 := by
  unfold rwLow; split <;> rfl

theorem leastTime_send (c : Config) (v : Byte) (mode : SendMode) :
    leastTime (send c v mode) =
      (match c.width with | .eightBit => 1 | .fourBit => 2) *
        (c.timing.tEnSetup + c.timing.tEnHigh + c.timing.tSettle) := by
  cases h : c.width <;> simp [send, transfers, h, leastTime, MicroOp.minTime]
  omega

/-! ### Registers: no pin primitive writes one -/

@[simp] theorem foldl_onRegs_writeBits (c : Config) (v : Byte) (n : Nat) (r : Regs) :
    (writeBits c v n).foldl (fun r op => op.onRegs r) r = r := rfl

@[simp] theorem foldl_onRegs_send (c : Config) (v : Byte) (mode : SendMode) (r : Regs) :
    (send c v mode).foldl (fun r op => op.onRegs r) r = r := by
  unfold send transfers rwLow
  split <;> split <;> rfl

/-! ### Length -/

@[simp] theorem length_writeBits (c : Config) (v : Byte) (n : Nat) : (writeBits c v n).length = 7 := rfl

theorem length_send (c : Config) (v : Byte) (mode : SendMode) :
    (send c v mode).length = (match c.width with | .eightBit => 8 | .fourBit => 15) + (if c.hasRw then 1 else 0) := by
  cases h : c.width <;> cases h' : c.hasRw <;> simp [send, transfers, rwLow, h, h']

/-! ### Operations -/

/-- The decoder's operand check and the operand ranges say the same (41_begin.md R108). -/
theorem illegalBegin_eq (columns lines : Byte) : illegalBegin columns lines = !beginRangesHold columns lines := by
  rw [Bool.eq_iff_iff]
  simp [illegalBegin, beginRangesHold, BitVec.toNat_eq]

/-- A `BEGIN` with its operands in range, as the acceptance of its list (41_begin.md R100, R109). -/
theorem execBegin_of_ranges (columns lines : Byte) (dots5x10 : Bool) (s : State)
    (h : beginRangesHold columns lines = true) :
    exec (.begin columns lines dots5x10) s =
      .next (s.acceptAfter (beginRegisterWrites s.cfg columns lines dots5x10)
        (beginWaitAndTraffic s.cfg (functionFlagsFor s.cfg lines dots5x10))) := by
  have h' : illegalBegin columns lines = false := by rw [illegalBegin_eq, h]; rfl
  simp [exec, execBegin, h']

/-- Every operation but `BEGIN` is the acceptance of its micro-operation list (10_state.md R35). -/
theorem exec_of_not_begin (i : Instr) (s : State) (h : i.opcode ≠ 0x01) :
    exec i s = .next (s.accept (opsOf s.cfg s.regs i)) := by
  cases i with
  | begin columns lines dots5x10 => exact absurd rfl h
  | clear => rfl
  | home => rfl
  | setCursor col row => rfl
  | displayOn => rfl
  | displayOff => rfl
  | cursorOn => rfl
  | cursorOff => rfl
  | blinkOn => rfl
  | blinkOff => rfl
  | scrollLeft => rfl
  | scrollRight => rfl
  | textLtr => rfl
  | textRtl => rfl
  | autoscrollOn => rfl
  | autoscrollOff => rfl
  | createChar slot glyph => rfl
  | putc byte => rfl

/-- A well-formed operation on a ready block, run to its end, has performed its list (R35, R37). -/
theorem exec_completes (i : Instr) (s : State) (h : i.wellFormed = true) (hr : s.cmdReady = true) :
    ∃ t, exec i s = .next t ∧ t.complete = s.performAll (opsOf s.cfg s.regs i) := by
  cases i
  case begin columns lines dots5x10 =>
    exact ⟨_, execBegin_of_ranges columns lines dots5x10 s h, State.complete_acceptAfter s _ _ hr⟩
  all_goals exact ⟨_, rfl, State.complete_accept s _ hr⟩

/-- Offered while the block is not ready, an operation waits (10_state.md R31). -/
theorem exec_not_ready (i : Instr) (s : State) (hr : s.cmdReady = false) : exec i s = .next s := by
  cases i
  case begin columns lines dots5x10 => simp [exec, execBegin, State.acceptAfter, hr]
  all_goals exact congrArg Host.Outcome.next (State.accept_not_ready s _ hr)

end Sys2Proof.Machine
end

