-- ==== Sys2Proof/Machine/Assembler.lean ====
section
/-! DEFINITION. The text forms of 30_encoding.md: a command word as 20 hexadecimal digits (R70) and the assembler syntax,
one operation per line (R77), with the pseudo-operations (R78). What R77 leaves open (spaces, case, the range of a
character) is notes/assumptions/20.md. -/

namespace Sys2Proof.Machine

/-- A command word "as 20 hexadecimal digits, most significant first" (R70). -/
def wordText (w : CommandWord) : String := String.ofList (hexText 20 w.toNat)

/-- The tokens of a line. -/
inductive AsmToken where
  | word (chars : List Char)
  | byte (value : Byte)
  | text (bytes : List Byte)
  | comma
deriving DecidableEq, Repr

/-- Where the reader of a line stands. Collected characters are held last first. -/
inductive AsmScan where
  | between
  | inWord (chars : List Char)
  | inText (chars : List Char)
  | quoteOpen
  | quoteClose (c : Char)
deriving DecidableEq, Repr

/-- The bytes of a text: "The text is bytes, not characters" (45_data_commands.md R144). -/
def textBytes (chars : List Char) : List Byte :=
  (String.ofList chars).toUTF8.toList.map fun b => BitVec.ofNat 8 b.toNat

/-- The tokens of a line; `;` starts a comment (R77). -/
def asmTokens : AsmScan → List Char → Option (List AsmToken)
  | .between, [] => some []
  | .inWord w, [] => some [.word w.reverse]
  | .inText _, [] => none
  | .quoteOpen, [] => none
  | .quoteClose _, [] => none
  | .between, c :: cs =>
    if c = ' ' then asmTokens .between cs
    else if c = ';' then some []
    else if c = ',' then (asmTokens .between cs).map (.comma :: ·)
    else if c = '"' then asmTokens (.inText []) cs
    else if c = '\'' then asmTokens .quoteOpen cs
    else asmTokens (.inWord [c]) cs
  | .inWord w, c :: cs =>
    if c = ' ' then (asmTokens .between cs).map (.word w.reverse :: ·)
    else if c = ';' then some [.word w.reverse]
    else if c = ',' then (asmTokens .between cs).map fun ts => .word w.reverse :: .comma :: ts
    else asmTokens (.inWord (c :: w)) cs
  | .inText t, c :: cs =>
    if c = '"' then (asmTokens .between cs).map (.text (textBytes t.reverse) :: ·) else asmTokens (.inText (c :: t)) cs
  | .quoteOpen, c :: cs => asmTokens (.quoteClose c) cs
  | .quoteClose c, q :: cs =>
    if q = '\'' ∧ c.toNat < 128 then (asmTokens .between cs).map (.byte (BitVec.ofNat 8 c.toNat) :: ·) else none

/-- The value of a digit of base `base`. -/
def digitValue (base : Nat) (c : Char) : Option Nat :=
  let v :=
    if '0' ≤ c ∧ c ≤ '9' then c.toNat - 48
    else if 'A' ≤ c ∧ c ≤ 'F' then c.toNat - 55
    else if 'a' ≤ c ∧ c ≤ 'f' then c.toNat - 87
    else base
  if v < base then some v else none

/-- The value of a row of digits, given the value of those before it. -/
def digitsValue (base : Nat) : Nat → List Char → Option Nat
  | acc, [] => some acc
  | acc, c :: cs =>
    match digitValue base c with
    | some v => digitsValue base (acc * base + v) cs
    | none => none

/-- "numbers in decimal or with `0x`" (R77). -/
def numberValue : List Char → Option Nat
  | '0' :: 'x' :: c :: cs => digitsValue 16 0 (c :: cs)
  | c :: cs => digitsValue 10 0 (c :: cs)
  | [] => none

/-- A byte operand: a number below 256 or a quoted character. -/
def AsmToken.byteValue : AsmToken → Option Byte
  | .byte v => some v
  | .word w =>
    match numberValue w with
    | some n => if n < 256 then some (BitVec.ofNat 8 n) else none
    | none => none
  | .text _ => none
  | .comma => none

/-- The operands of a line, "separated by commas" (R77). -/
def asmOperands : List AsmToken → Option (List AsmToken)
  | [] => some []
  | .comma :: _ => none
  | t :: [] => some [t]
  | t :: .comma :: u :: rest => (asmOperands (u :: rest)).map (t :: ·)
  | _ :: .comma :: [] => none
  | _ :: .word _ :: _ => none
  | _ :: .byte _ :: _ => none
  | _ :: .text _ :: _ => none

/-- `BEGIN`'s third operand: `5x8` or `5x10` (R77). -/
def dotSize : AsmToken → Option Bool
  | .word w => if w = "5x8".toList then some false else if w = "5x10".toList then some true else none
  | .byte _ => none
  | .text _ => none
  | .comma => none

/-- `on` or `off`, `ltr` or `rtl`: the argument of a pseudo-operation (R78). -/
def switchValue (yes no : String) : AsmToken → Option Bool
  | .word w => if w = yes.toList then some true else if w = no.toList then some false else none
  | .byte _ => none
  | .text _ => none
  | .comma => none

/-- The operations without operands, by mnemonic (30_encoding.md R72). -/
def plainOperations : List (String × Instr) :=
  [("CLEAR", .clear), ("HOME", .home), ("DISPLAY_ON", .displayOn), ("DISPLAY_OFF", .displayOff),
   ("CURSOR_ON", .cursorOn), ("CURSOR_OFF", .cursorOff), ("BLINK_ON", .blinkOn), ("BLINK_OFF", .blinkOff),
   ("SCROLL_LEFT", .scrollLeft), ("SCROLL_RIGHT", .scrollRight), ("TEXT_LTR", .textLtr), ("TEXT_RTL", .textRtl),
   ("AUTOSCROLL_ON", .autoscrollOn), ("AUTOSCROLL_OFF", .autoscrollOff)]

/-- The operations with byte operands (R77). -/
def byteOperation (name : String) (operands : List Byte) : Option Instr :=
  match name, operands with
  | "BEGIN", [columns, lines] => some (.begin columns lines false)
  | "SET_CURSOR", [col, row] => some (.setCursor col row)
  | "CREATE_CHAR", [slot, r0, r1, r2, r3, r4, r5, r6, r7] => some (.createChar slot ⟨r0, r1, r2, r3, r4, r5, r6, r7⟩)
  | "PUTC", [byte] => some (.putc byte)
  | _, _ => none

/-- The operations of one mnemonic with its operands (R77, R78). -/
def asmOperation (name : String) (operands : List AsmToken) : Option (List Instr) :=
  match name, operands with
  | "PRINT", [.text bytes] => some (Pseudo.print bytes).expand
  | "TEXT_DIRECTION", [arg] => (switchValue "ltr" "rtl" arg).map fun b => (Pseudo.textDirection b).expand
  | "AUTOSCROLL", [arg] => (switchValue "on" "off" arg).map fun b => (Pseudo.autoscroll b).expand
  | "DISPLAY", [arg] => (switchValue "on" "off" arg).map fun b => (Pseudo.display b).expand
  | "CURSOR", [arg] => (switchValue "on" "off" arg).map fun b => (Pseudo.cursor b).expand
  | "BLINK", [arg] => (switchValue "on" "off" arg).map fun b => (Pseudo.blink b).expand
  | "BEGIN", [columns, lines, dots] =>
    match columns.byteValue, lines.byteValue, dotSize dots with
    | some c, some l, some d => some [.begin c l d]
    | _, _, _ => none
  | name, [] => (plainOperations.lookup name).map fun i => [i]
  | name, operands =>
    match operands.mapM AsmToken.byteValue with
    | some bytes => (byteOperation name bytes).map fun i => [i]
    | none => none

/-- One line of a program: nothing, or a mnemonic and its operands (R77). -/
def assembleLine (line : String) : Option (List Instr) :=
  match asmTokens .between line.toList with
  | some [] => some []
  | some (.word name :: rest) =>
    match asmOperands rest with
    | some operands => asmOperation (String.ofList name) operands
    | none => none
  | some (.byte _ :: _) => none
  | some (.text _ :: _) => none
  | some (.comma :: _) => none
  | none => none

/-- A program's command words, in order (R77). -/
def assemble : List String → Option (List CommandWord)
  | [] => some []
  | line :: rest =>
    match assembleLine line, assemble rest with
    | some is, some ws => some (is.map encode ++ ws)
    | _, _ => none

end Sys2Proof.Machine
end

