-- ==== Sys2Proof/Tests/Slice0.lean ====
section
/-! SUPPORT. The model's own tests. Expected values come from spec/: the worked examples of the operation rules, 95_test_vectors.md,
and words written out from 30_encoding.md R71 and R72. The `witness_` theorems show that the hypotheses of the statements
can be met together. -/

namespace Sys2Proof.Tests

open Sys2Proof Sys2Proof.Machine

/-! ### Helpers -/

/-- A configuration with the default constants. -/
def cfgOf (w : Width) (rw : Bool) : Config := { width := w, hasRw := rw }

/-- An idle block with given registers. -/
def idle (c : Config) (r : Regs) : State := { State.resetOf c with regs := r }

/-- The registers after `BEGIN 16, 2` on a 4-bit block (41_begin.md R100). -/
def regs16x2 : Regs := ⟨0x08, 0x04, 0x02, ⟨0x00, 0x40, 0x10, 0x50⟩, 2⟩

/-- The sends that stand in `pending` after a step, and the registers. -/
def sends : Host.Outcome State Fault Refusal → Option (List (SendMode × Byte))
  | .next t => some (sendList (traceOf t.pending))
  | .fault _ => none
  | .refused _ => none

/-- The registers after a step. -/
def regsOf : Host.Outcome State Fault Refusal → Option Regs
  | .next t => some t.regs
  | .fault _ => none
  | .refused _ => none

/-- The registers once the operation that a step accepts is over. -/
def regsWhenDone : Host.Outcome State Fault Refusal → Option Regs
  | .next t => some t.complete.regs
  | .fault _ => none
  | .refused _ => none

/-- The fault record after a step. -/
def faultOf : Host.Outcome State Fault Refusal → Option FaultRecord
  | .next t => some t.fault
  | .fault _ => none
  | .refused _ => none

/-- A 4-bit block with a read/write pin. -/
def c4 : Config := cfgOf .fourBit true

/-- An 8-bit block without one. -/
def c8 : Config := cfgOf .eightBit false

/-- A block in the middle of the first enable pulse of an operation. -/
def midPulse : State := { State.reset with pending := [.wait 1, .setPin .en .low, .wait 100] }

/-! ### WellFormed: an ill-formed operation for each check -/

theorem test_illFormed_columns_zero : (Instr.begin 0 2 false).wellFormed = false := by decide
theorem test_illFormed_lines_zero : (Instr.begin 16 0 false).wellFormed = false := by decide
theorem test_illFormed_lines_five : (Instr.begin 16 5 false).wellFormed = false := by decide

/-! ### Decoding: every constructor, from words written out (R71, R72) -/

theorem test_decode_begin : decode 0x01100000000000000102 = .op (.begin 16 2 true) := by decide
theorem test_decode_begin_ignored : decode 0x0110FFFFFFFFFFFFFE02 = .op (.begin 16 2 false) := by decide
theorem test_decode_clear : decode 0x02ABCDEF0123456789AB = .op .clear := by decide
theorem test_decode_home : decode 0x03000000000000000000 = .op .home := by decide
theorem test_decode_setCursor : decode 0x0405FFFFFFFFFFFFFF00 = .op (.setCursor 5 0) := by decide
theorem test_decode_displayOn : decode 0x05000000000000000000 = .op .displayOn := by decide
theorem test_decode_displayOff : decode 0x06000000000000000000 = .op .displayOff := by decide
theorem test_decode_cursorOn : decode 0x07000000000000000000 = .op .cursorOn := by decide
theorem test_decode_cursorOff : decode 0x08000000000000000000 = .op .cursorOff := by decide
theorem test_decode_blinkOn : decode 0x09000000000000000000 = .op .blinkOn := by decide
theorem test_decode_blinkOff : decode 0x0A000000000000000000 = .op .blinkOff := by decide
theorem test_decode_scrollLeft : decode 0x0B000000000000000000 = .op .scrollLeft := by decide
theorem test_decode_scrollRight : decode 0x0C000000000000000000 = .op .scrollRight := by decide
theorem test_decode_textLtr : decode 0x0D000000000000000000 = .op .textLtr := by decide
theorem test_decode_textRtl : decode 0x0E000000000000000000 = .op .textRtl := by decide
theorem test_decode_autoscrollOn : decode 0x0F000000000000000000 = .op .autoscrollOn := by decide
theorem test_decode_autoscrollOff : decode 0x10000000000000000000 = .op .autoscrollOff := by decide
theorem test_decode_createChar :
    decode 0x11010000040E1F1F0A00 = .op (.createChar 1 ⟨0x00, 0x0A, 0x1F, 0x1F, 0x0E, 0x04, 0x00, 0x00⟩) := by decide
theorem test_decode_putc : decode 0x1241FFFFFFFFFFFFFFFF = .op (.putc 0x41) := by decide
theorem test_decode_zero : decode 0x00000000000000000000 = .illegal .illegalOpcode := by decide
theorem test_decode_reserved : decode 0x13550000000000001234 = .illegal .illegalOpcode := by decide
theorem test_decode_begin_zero_columns : decode 0x01000000000000000002 = .illegal .illegalOperand := by decide
theorem test_decode_begin_five_lines : decode 0x01100000000000000005 = .illegal .illegalOperand := by decide
theorem test_encode_createChar :
    encode (.createChar 0 ⟨0, 1, 2, 3, 4, 5, 6, 7⟩) = 0x11000706050403020100 := by decide
theorem test_decodeTableWord : decodeTableWord 80 0x12480000000000000000 = some (.putc 0x48) := by decide

/-! ### One step of each operation (the worked examples of its rule) -/

theorem test_begin_regs :
    regsOf (exec (.begin 16 2 false) State.reset) = some ⟨0x08, 0x00, 0x00, ⟨0x00, 0x40, 0x10, 0x50⟩, 2⟩ := by decide
theorem test_begin_sends :
    sends (exec (.begin 16 2 false) State.reset) =
      some [(.command, 0x28), (.command, 0x0C), (.command, 0x01), (.command, 0x06)] := by decide
theorem test_clear : sends (exec .clear (State.resetOf c8)) = some [(.command, 0x01)] := by decide
theorem test_home_trace :
    traceText (traceOf (homeOps c8)) =
      ["RS=0", "DB[7:0]=0x02", "EN=0", "W(1)", "EN=1", "W(1)", "EN=0", "W(100)", "W(2000)"] := by decide
/-- A flag is written one step after acceptance: between the two, a read gives the old value with `BUSY` 1 (10_state.md R35,
60_exceptions.md R156 c). -/
theorem test_flag_read_before_write :
    regsOf (exec .cursorOn (idle c4 regs16x2)) = some regs16x2 ∧
    regsOf (step { idle c4 regs16x2 with pending := cursorOnOps c4 regs16x2 }) =
      some { regs16x2 with displayControlFlags := 6 } := by decide
theorem test_setCursor : sends (exec (.setCursor 5 1) (idle c4 regs16x2)) = some [(.command, 0xC5)] := by decide
theorem test_setCursor_clamped : sends (exec (.setCursor 255 200) (idle c4 regs16x2)) = some [(.command, 0xBF)] := by
  decide
theorem test_displayOn : sends (exec .displayOn (idle c8 ⟨0, 3, 0, ⟨0, 64, 0, 64⟩, 1⟩)) = some [(.command, 0x0F)] := by
  decide
theorem test_displayOff : sends (exec .displayOff (idle c8 ⟨0, 7, 0, ⟨0, 64, 0, 64⟩, 1⟩)) = some [(.command, 0x0B)] := by
  decide
theorem test_cursorOn : regsWhenDone (exec .cursorOn (idle c4 regs16x2)) = some { regs16x2 with displayControlFlags := 6 } := by
  decide
theorem test_cursorOff : sends (exec .cursorOff (idle c8 ⟨0, 7, 0, ⟨0, 64, 0, 64⟩, 1⟩)) = some [(.command, 0x0D)] := by
  decide
theorem test_blinkOn : sends (exec .blinkOn (idle c8 ⟨0, 6, 0, ⟨0, 64, 0, 64⟩, 1⟩)) = some [(.command, 0x0F)] := by decide
theorem test_blinkOff : sends (exec .blinkOff (idle c8 ⟨0, 5, 0, ⟨0, 64, 0, 64⟩, 1⟩)) = some [(.command, 0x0C)] := by decide
theorem test_scrollLeft : sends (exec .scrollLeft (idle c4 regs16x2)) = some [(.command, 0x18)] := by decide
theorem test_scrollRight : sends (exec .scrollRight (idle c4 regs16x2)) = some [(.command, 0x1C)] := by decide
theorem test_textLtr : sends (exec .textLtr State.reset) = some [(.command, 0x06)] := by decide
theorem test_textRtl :
    sends (exec .textRtl (idle c4 { regs16x2 with entryModeFlags := 3 })) = some [(.command, 0x05)] := by decide
theorem test_autoscrollOn : sends (exec .autoscrollOn (idle c4 regs16x2)) = some [(.command, 0x07)] := by decide
theorem test_autoscrollOff :
    regsWhenDone (exec .autoscrollOff (idle c4 { regs16x2 with entryModeFlags := 1 })) =
      some { regs16x2 with entryModeFlags := 0 } := by decide
theorem test_createChar :
    sends (exec (.createChar 9 ⟨0x00, 0x0A, 0x1F, 0x1F, 0x0E, 0x04, 0x00, 0x00⟩) State.reset) =
      some [(.command, 0x48), (.data, 0x00), (.data, 0x0A), (.data, 0x1F), (.data, 0x1F), (.data, 0x0E), (.data, 0x04),
        (.data, 0x00), (.data, 0x00)] := by decide
theorem test_putc_trace :
    traceText (traceOf (putcOps c4 0x48)) =
      ["RS=1", "RW=0", "DB[3:0]=0x4", "EN=0", "W(1)", "EN=1", "W(1)", "EN=0", "W(100)",
       "DB[3:0]=0x8", "EN=0", "W(1)", "EN=1", "W(1)", "EN=0", "W(100)"] := by decide

/-! ### Faults, reset, ports, text (95_test_vectors.md 2.7, 2.8) -/

theorem test_first_fault_recorded :
    faultOf (step (State.reset.withFetchWord 80 0x13550000000000001234)) = some ⟨true, 0x01, 0x13⟩ := by decide
theorem test_second_fault_not_recorded :
    faultOf (step (State.withFetchWord { State.reset with fault := ⟨true, 0x02, 0x01⟩ } 80 0)) =
      some ⟨true, 0x02, 0x01⟩ := by decide
theorem test_config_register : (State.resetOf c8).csrRead 0xB = 0x01 := by decide
theorem test_construct_three_pins :
    (PinPlan.config ⟨.fourBit, some 7, some 8, none, [1, 2, 3]⟩).toOption = none := by decide
theorem test_word_text : wordText (encode (.putc 0x48)) = "12480000000000000000" := by decide
theorem test_assemble_operands : numberValue "0x1F".toList = some 0x1F := by decide

/-! ### The hypotheses of the statements can be met -/

theorem witness_wellFormed_least : (Instr.begin 1 1 false).wellFormed = true := by decide
theorem witness_wellFormed_greatest : (Instr.begin 255 4 true).wellFormed = true := by decide
theorem witness_decoded_word : decode 0x01FF0000000000000004 = .op (.begin 255 4 false) := by decide
theorem witness_ignored_bits :
    decode 0x02000000000000000000 = .op .clear ∧
    (0x02ABCDEF0123456789AB : CommandWord) &&& Instr.clear.usedBits =
      0x02000000000000000000 &&& Instr.clear.usedBits := by decide
theorem witness_begin_word :
    fieldOpcode 0x01010000000000000001 = 0x01 ∧ beginRangesHold (fieldA 0x01010000000000000001)
      (fieldB 0x01010000000000000001) = true := by decide
theorem witness_illegal_begin_words :
    (fieldOpcode 0x01000000000000000004 = 0x01 ∧ fieldA 0x01000000000000000004 = 0) ∧
    (fieldOpcode 0x01FF0000000000000000 = 0x01 ∧ fieldB 0x01FF0000000000000000 = 0) ∧
    (fieldOpcode 0x01FF0000000000000005 = 0x01 ∧ 4 < (fieldB 0x01FF0000000000000005).toNat) := by decide
theorem witness_opcodes :
    fieldOpcode 0x02000000000000000000 = 0x02 ∧ fieldOpcode 0x03000000000000000000 = 0x03 ∧
    fieldOpcode 0x04000000000000000000 = 0x04 ∧ fieldOpcode 0x05000000000000000000 = 0x05 ∧
    fieldOpcode 0x06000000000000000000 = 0x06 ∧ fieldOpcode 0x07000000000000000000 = 0x07 ∧
    fieldOpcode 0x08000000000000000000 = 0x08 ∧ fieldOpcode 0x09000000000000000000 = 0x09 ∧
    fieldOpcode 0x0A000000000000000000 = 0x0A ∧ fieldOpcode 0x0B000000000000000000 = 0x0B ∧
    fieldOpcode 0x0C000000000000000000 = 0x0C ∧ fieldOpcode 0x0D000000000000000000 = 0x0D ∧
    fieldOpcode 0x0E000000000000000000 = 0x0E ∧ fieldOpcode 0x0F000000000000000000 = 0x0F ∧
    fieldOpcode 0x10000000000000000000 = 0x10 ∧ fieldOpcode 0x11000000000000000000 = 0x11 ∧
    fieldOpcode 0x12000000000000000000 = 0x12 ∧ fieldOpcode 0x13000000000000000000 = 0x13 := by decide

/-- An idle block with a word on its port: a legal word, and an illegal one of each cause. -/
theorem witness_word_offered :
    let s : State := { State.reset with words := [0x02000000000000000000] }
    s.sampleReset.rst = false ∧ s.sampleReset.pending = [] ∧ s.sampleReset.words = 0x02000000000000000000 :: [] ∧
      decode 0x02000000000000000000 = .op .clear := by decide
theorem witness_illegal_words_offered :
    let s : State := { State.reset with words := [0x13000000000000000000] }
    let u : State := { State.reset with words := [0x01100000000000000005] }
    s.sampleReset.rst = false ∧ s.sampleReset.pending = [] ∧ decode 0x13000000000000000000 = .illegal .illegalOpcode ∧
    u.sampleReset.rst = false ∧ u.sampleReset.pending = [] ∧ decode 0x01100000000000000005 = .illegal .illegalOperand := by
  decide
theorem witness_word_placed : decodeTableWord 80 0x02000000000000000000 = some .clear := by decide
theorem witness_mid_operation :
    midPulse.sampleReset.rst = false ∧ midPulse.sampleReset.pending = .wait 1 :: [.setPin .en .low, .wait 100] ∧
    midPulse.cmdReady = false ∧ midPulse.resetScript = [] := by decide
theorem witness_ready :
    State.reset.cmdReady = true ∧ State.reset.resetScript = [] ∧ 1 ≤ State.reset.regs.lineCount.toNat ∧
    State.reset.regs.lineCount.toNat ≤ (7 : Byte).toNat ∧ (State.resetOf c8).cmdReady = true := by decide
/-- The row clamp at its ends: four lines, the first row beyond them and the greatest. -/
theorem witness_clamped_rows :
    let s := idle c4 { regs16x2 with lineCount := 4 }
    s.regs.lineCount.toNat ≤ 4 ∧ s.regs.lineCount.toNat ≤ (4 : Byte).toNat ∧
      s.regs.lineCount.toNat ≤ (255 : Byte).toNat := by decide
/-- Every row of the table is some operand's row. -/
theorem witness_rows :
    clampedRow 0 4 = 0 ∧ clampedRow 1 4 = 1 ∧ clampedRow 2 4 = 2 ∧ clampedRow 3 4 = 3 ∧ clampedRow 255 4 = 3 := by decide
theorem witness_standard : c4.Standard ∧ c8.Standard ∧ (cfgOf .fourBit false).Standard ∧ (cfgOf .eightBit true).Standard := by
  decide
theorem witness_data_pin : (Pins.afterReset c4).db[3]? = some .unknown ∧ (Pins.afterReset c8).db[7]? = some .unknown := by
  decide
theorem witness_pins_legal : (Pins.afterReset c4).legal c4 = true ∧ (Pins.afterReset c8).legal c8 = true := by decide
theorem witness_function_byte :
    (0x28 : Byte) = 0x20 ||| functionFlagsFor c4 2 true ∧ (0x34 : Byte) = 0x20 ||| functionFlagsFor c8 1 true := by decide
theorem witness_begin_accepted :
    ∃ t, State.reset.cmdReady = true ∧ State.reset.resetScript = [] ∧ beginRangesHold 20 4 = true ∧
      exec (.begin 20 4 false) State.reset = .next t := ⟨_, by decide, by decide, by decide, rfl⟩
theorem witness_reset_offered :
    let s : State := { midPulse with resetScript := [.assert (some 0)] }
    let u : State := { midPulse with resetScript := [.assert none] }
    s.rst = false ∧ s.resetScript = .assert (some 0) :: [] ∧ u.rst = false ∧ u.resetScript = .assert none :: [] ∧
      ∃ t, step u = .next t := ⟨by decide, by decide, by decide, by decide, _, rfl⟩
theorem witness_in_reset :
    let s : State := { State.reset with rst := true, resetScript := [.quiet] }
    let u : State := { State.reset with rst := true, resetScript := [.release], words := [0x02000000000000000000] }
    s.rst = true ∧ s.resetScript = .quiet :: [] ∧
    u.rst = true ∧ u.resetScript = .release :: [] ∧ u.pending = [] ∧ u.words = 0x02000000000000000000 :: [] := by decide
theorem witness_in_reset_other_moves :
    let s : State := { State.reset with rst := true }
    let u : State := { State.reset with rst := true, resetScript := [.assert (some 3)] }
    let v : State := { State.reset with rst := true, resetScript := [.release] }
    s.rst = true ∧ s.resetScript = [] ∧ u.rst = true ∧ u.resetScript = .assert (some 3) :: [] ∧
    v.rst = true ∧ v.resetScript = .release :: [] ∧ v.pending = [] ∧ v.words = [] := by decide
theorem witness_at_rest :
    State.reset.sampleReset.rst = false ∧ State.reset.sampleReset.pending = [] ∧ State.reset.sampleReset.words = [] := by
  decide
theorem witness_fault_recorded :
    ∃ t, step { State.reset with fault := ⟨true, 1, 0x13⟩ } = .next t := ⟨_, rfl⟩
/-- A step that takes a word. -/
theorem witness_word_taken :
    ∃ t, step { State.reset with words := [0x02000000000000000000] } = .next t ∧ t.words ≠ [0x02000000000000000000] :=
  ⟨_, rfl, by decide⟩
theorem witness_inv : Inv State.reset where
  standard := by decide
  regs := by decide
  pins := by decide
  fault := by decide
  pendingLegal := by decide
  pendingSettles := .inl rfl
  enableRests := by decide
  heldInReset := by decide
theorem witness_emitted :
    (SendMode.command, (0x28 : Byte)) ∈ sendList (traceOf (opsOf State.reset.cfg State.reset.regs (.begin 16 2 false))) := by
  decide
theorem witness_sameLogic :
    SameLogic { State.reset with trace := [.wait 1], elapsed := 7, pins := ⟨.holds .high, none, .holds .low, []⟩ }
      State.reset := ⟨rfl, rfl, rfl, rfl, rfl, rfl, rfl⟩
theorem witness_print : (Pseudo.print [0x48, 0x49]).expand = [.putc 0x48, .putc 0x49] := by decide
theorem witness_pin_plans :
    (⟨.fourBit, some 7, some 8, none, [1, 2, 3, 4]⟩ : PinPlan).data.length = 4 ∧
    (⟨.fourBit, none, some 8, none, [1, 2, 3, 4]⟩ : PinPlan).registerSelect = none ∧
    (⟨.fourBit, some 7, none, none, [1, 2, 3, 4]⟩ : PinPlan).enable = none ∧
    (⟨.eightBit, some 7, some 8, none, [1, 2, 3, 4]⟩ : PinPlan).data.length ≠ 8 := by decide
theorem witness_block : [State.reset, State.reset][1]? = some State.reset := rfl

/-- An 8-bit block after a completed `BEGIN 20, 4`. -/
def begun : State := State.performAll (State.resetOf c8) (beginOps c8 20 4 false)

theorem begun_last_sends :
    lastCommand isFunctionSet (sendList begun.complete.trace) = some 0x38 ∧
    lastCommand isDisplayControl (sendList begun.complete.trace) = some 0x0C ∧
    lastCommand isEntryMode (sendList begun.complete.trace) = some 0x06 ∧
    begun.complete.regs = ⟨0x18, 0x04, 0x02, ⟨0x00, 0x40, 0x14, 0x54⟩, 4⟩ ∧ begun.complete.cfg = c8 := by decide

theorem witness_mirror_after_begin : Inv begun ∧ MirrorsWhenDone begun ∧ begun.pending = [] ∧ Begun begun := by
  obtain ⟨h1, h2, h3, h4, h5⟩ := begun_last_sends
  refine ⟨⟨by decide, by decide, by decide, by decide, by decide, .inl (by decide), by decide, by decide⟩, ?_,
    by decide, [], [], 20, 4, false, by decide, by decide⟩
  rw [MirrorsWhenDone, Mirrors, h1, h2, h3, h4, h5]
  refine ⟨?_, ?_, ?_⟩ <;> · intro b h; cases h; decide

end Sys2Proof.Tests
end

section
/-! PROOFS for 20_memory.md: what a `Drive` leaves on the data latches (R54). -/

namespace Sys2Proof.Machine

/-- One data latch after a `Drive`, from its level before. -/
def drivenLatch (n : Nat) (v : Byte) (i : Nat) (old : Latch) : Latch :=
  if i < n then .holds (Level.ofBool (v.getLsbD i)) else old

theorem Level.ofBool_eq_ite (b : Bool) : Level.ofBool b = if b then .high else .low := by cases b <;> rfl

theorem Pins.driveData_db (p : Pins) (n : Nat) (v : Byte) :
    (p.driveData n v).db = p.db.mapIdx (drivenLatch n v) := rfl

theorem Pins.driveData_db_getElem? (p : Pins) (n : Nat) (v : Byte) (i : Nat) :
    (p.driveData n v).db[i]? = p.db[i]?.map (drivenLatch n v i) := by
  rw [driveData_db, List.getElem?_mapIdx]

/-- A pin at `n` or above is not written, and below `n` the low bits of `v` are those of `v`. -/
theorem drivenLatch_lowBits (n : Nat) (v : Byte) : drivenLatch n (lowBits n v) = drivenLatch n v := by
  funext i old
  by_cases h : i < n
  · simp [drivenLatch, h, lowBits_getLsbD]
  · simp [drivenLatch, h]

theorem Pins.driveData_lowBits (p : Pins) (n : Nat) (v : Byte) :
    p.driveData n (lowBits n v) = p.driveData n v :=
  congrArg (fun f => { p with db := p.db.mapIdx f }) (drivenLatch_lowBits n v)

/-- Settles O13: the latches by their index in the list, the value by its low bits; the frame is the model's own laws. -/
theorem driveSetsDataPins : Obligations.DriveSetsDataPins := by
  intro p n v _
  refine ⟨fun i old hold => ?_, p.driveData_length n v, p.driveData_rs n v, p.driveData_rw n v, p.driveData_en n v,
    p.driveData_lowBits n v⟩
  rw [p.driveData_db_getElem?, hold, Option.map_some, drivenLatch, Level.ofBool_eq_ite]

end Sys2Proof.Machine
end

section
/-! PROOFS for 30_encoding.md: what the decoder answers for every word (R73). -/

namespace Sys2Proof

variable {w : CommandWord}

/-! ### Operands as bits of the word (R70, R71) -/

theorem fieldD_eq_getLsbD (w : CommandWord) : fieldD w = w.getLsbD 8 := by
  simp [fieldD, fieldG]

/-- Eight bits of the field `g` are the same eight bits of the word. -/
theorem extractLsb'_fieldG (w : CommandWord) (i : Nat) (h : i + 8 ≤ 64) :
    (fieldG w).extractLsb' i 8 = w.extractLsb' i 8 := by
  apply BitVec.eq_of_getLsbD_eq
  intro j hj
  simp [fieldG, hj, show i + j < 64 by omega]

theorem glyphOfField_fieldG (w : CommandWord) :
    glyphOfField (fieldG w) =
      ⟨w.extractLsb' 0 8, w.extractLsb' 8 8, w.extractLsb' 16 8, w.extractLsb' 24 8,
       w.extractLsb' 32 8, w.extractLsb' 40 8, w.extractLsb' 48 8, w.extractLsb' 56 8⟩ := by
  simp [glyphOfField, extractLsb'_fieldG]

theorem illegalBegin_iff (a b : Byte) : illegalBegin a b = true ↔ a = 0 ∨ b = 0 ∨ 4 < b.toNat := by
  simp [illegalBegin, or_assoc]

/-! ### The answer, by the opcode -/

theorem decode_unassigned (h : fieldOpcode w = 0x00 ∨ 0x13 ≤ (fieldOpcode w).toNat) :
    decode w = .illegal .illegalOpcode := by
  have hop : (fieldOpcode w).toNat = 0 ∨ 0x13 ≤ (fieldOpcode w).toNat := h.imp_left (congrArg BitVec.toNat)
  unfold decode
  split
  case h_19 => rfl
  all_goals omega

theorem decode_begin_word (h : fieldOpcode w = 0x01) :
    decode w = if illegalBegin (fieldA w) (fieldB w) then .illegal .illegalOperand
      else .op (.begin (fieldA w) (fieldB w) (fieldD w)) := by
  simp [decode, h]

theorem decode_createChar_word (h : fieldOpcode w = 0x11) :
    decode w = .op (.createChar (fieldA w) (glyphOfField (fieldG w))) := by
  simp [decode, h]

/-- What an illegal word is, by its cause: every other opcode's answer is an operation. -/
theorem decode_illegal_cases {cause : IllegalCause} (h : decode w = .illegal cause) :
    (cause = .illegalOpcode ∧ (fieldOpcode w = 0x00 ∨ 0x13 ≤ (fieldOpcode w).toNat)) ∨
    (cause = .illegalOperand ∧ fieldOpcode w = 0x01 ∧ illegalBegin (fieldA w) (fieldB w) = true) := by
  unfold decode at h
  split at h
  case h_1 hop =>
    split at h
    next hill => cases h; exact .inr ⟨rfl, BitVec.eq_of_toNat_eq hop, hill⟩
    next => cases h
  case h_19 =>
    cases h
    refine .inl ⟨rfl, ?_⟩
    obtain hzero | hpos := Nat.eq_zero_or_pos (fieldOpcode w).toNat
    · exact .inl (BitVec.eq_of_toNat_eq hzero)
    · right
      simp only [imp_false] at *
      omega
  all_goals cases h

theorem decode_eq_illegalOpcode_iff :
    decode w = .illegal .illegalOpcode ↔ fieldOpcode w = 0x00 ∨ 0x13 ≤ (fieldOpcode w).toNat := by
  refine ⟨fun h => ?_, decode_unassigned⟩
  obtain ⟨-, hop⟩ | ⟨hcause, -⟩ := decode_illegal_cases h
  · exact hop
  · cases hcause

theorem decode_eq_illegalOperand_iff :
    decode w = .illegal .illegalOperand ↔
      fieldOpcode w = 0x01 ∧ illegalBegin (fieldA w) (fieldB w) = true := by
  refine ⟨fun h => ?_, fun ⟨hop, hill⟩ => by rw [decode_begin_word hop, if_pos hill]⟩
  obtain ⟨hcause, -⟩ | ⟨-, hbegin⟩ := decode_illegal_cases h
  · cases hcause
  · exact hbegin

/-- Settles O1: the two illegal causes by inversion of the decoder, `BEGIN` and `CREATE_CHAR` by their operands as bits of
the word, and each remaining opcode by its own row of the table. -/
theorem decodingIsTotal : Obligations.DecodingIsTotal := by
  intro w
  refine ⟨decode_eq_illegalOpcode_iff, ?operand, ?begin, ?_, ?_, ?_, ?_, ?_, ?_, ?_, ?_, ?_, ?_, ?_, ?_, ?_, ?_, ?_,
    ?createChar, ?_⟩
  case operand => rw [decode_eq_illegalOperand_iff, illegalBegin_iff]
  case begin =>
    intro hop ha hb hle
    have hlegal : ¬ illegalBegin (fieldA w) (fieldB w) = true := by
      rw [illegalBegin_iff, not_or, not_or]
      exact ⟨ha, hb, hle.not_gt⟩
    rw [decode_begin_word hop, if_neg hlegal, fieldD_eq_getLsbD]
  case createChar =>
    intro hop
    rw [decode_createChar_word hop, glyphOfField_fieldG]
  all_goals
    intro hop
    simp [decode, hop]

end Sys2Proof
end

section
/-! PROOFS for 40_pin_primitives.md: what one `WriteBits` leaves on the pins and in the trace (R90). -/

namespace Sys2Proof.Machine

theorem traceOf_writeBits (c : Config) (v : Byte) (n : Nat) :
    traceOf (writeBits c v n) = enablePulseTrace c.timing n (lowBits n v) := rfl

/-- Of the three levels written to `EN` only the last stays, and nothing else follows the drive of the data pins. -/
theorem foldl_onPins_writeBits (c : Config) (v : Byte) (n : Nat) (p : Pins) :
    (writeBits c v n).foldl (fun p op => op.onPins p) p = (p.driveData n v).setLevel .en .low := by
  rw [← p.driveData_lowBits]
  rfl

theorem drivenLatch_of_lt {n i : Nat} (v : Byte) (old : Latch) (h : i < n) :
    drivenLatch n v i old = .holds (Level.ofBool (v.getLsbD i)) := if_pos h

theorem drivenLatch_of_le {n i : Nat} (v : Byte) (h : n ≤ i) : drivenLatch n v i = id :=
  funext fun _ => if_neg h.not_gt

/-- The data pins that a drive of `n` bits writes. -/
theorem Pins.driveData_db_getElem?_of_lt (p : Pins) {n i : Nat} (v : Byte) (h : i < n) (hi : i < p.db.length) :
    (p.driveData n v).db[i]? = some (.holds (Level.ofBool (v.getLsbD i))) := by
  rw [driveData_db_getElem?, List.getElem?_eq_getElem hi, Option.map_some, drivenLatch_of_lt v _ h]

/-- The data pins that a drive of `n` bits leaves alone. -/
theorem Pins.driveData_db_getElem?_of_le (p : Pins) {n i : Nat} (v : Byte) (h : n ≤ i) :
    (p.driveData n v).db[i]? = p.db[i]? := by
  rw [driveData_db_getElem?, drivenLatch_of_le v h, Option.map_id_apply]

/-- Settles O14: the pins are those after one drive with `EN` low at the end, so the data pins follow from the drive alone;
the time is the list's least time. -/
theorem writeBitsPulsesEnable : Obligations.WriteBitsPulsesEnable := by
  rintro s t v n - rfl
  have hpins : (s.performAll (writeBits s.cfg v n)).pins = (s.pins.driveData n v).setLevel .en .low := by
    rw [State.performAll_pins, foldl_onPins_writeBits]
  have htime := s.leastTime_le_performAll (writeBits s.cfg v n)
  rw [leastTime_writeBits] at htime
  rw [hpins]
  refine ⟨?trace, fun i _ => lowBits_getLsbD n i v, ?driven, fun i hle => s.pins.driveData_db_getElem?_of_le v hle,
    s.pins.driveData_length n v, rfl, rfl, rfl, ?regs, State.performAll_fault s _, State.performAll_pending s _, ?time⟩
  case trace => rw [State.performAll_trace, traceOf_writeBits]
  case driven =>
    intro i hlt hi
    rw [← Level.ofBool_eq_ite]
    exact s.pins.driveData_db_getElem?_of_lt v hlt hi
  case regs => rw [State.performAll_regs, foldl_onRegs_writeBits]
  case time => omega

end Sys2Proof.Machine
end

section
/-! PROOFS for 41_begin.md: what a `BEGIN` leaves in the registers and in the trace (R107). -/

namespace Sys2Proof.Machine

/-! ### The registers after a `BEGIN` -/

/-- The registers after a `BEGIN` (R100 steps 1, 2, 7 and 9): a function of the configuration and the operands alone. -/
def beginRegs (c : Config) (columns lines : Byte) (dots5x10 : Bool) : Regs where
  functionFlags := functionFlagsFor c lines dots5x10
  displayControlFlags := c.codes.dcDisplay
  entryModeFlags := c.codes.eLeft
  rowOffset := ⟨c.codes.rowBase0, c.codes.rowBase1, columns, c.codes.rowBase1 + columns⟩
  lineCount := lines

/-- Steps 1 and 2 write everything but the display-control and the entry-mode flags. -/
theorem foldl_onRegs_beginRegisterWrites (c : Config) (columns lines : Byte) (dots5x10 : Bool) (r : Regs) :
    (beginRegisterWrites c columns lines dots5x10).foldl (fun r op => op.onRegs r) r =
      { beginRegs c columns lines dots5x10 with
        displayControlFlags := r.displayControlFlags
        entryModeFlags := r.entryModeFlags } := rfl

@[simp] theorem MicroOp.onRegs_wait (n : Nat) (r : Regs) : (MicroOp.wait n).onRegs r = r := rfl

@[simp] theorem MicroOp.onRegs_writeCsr (reg : Csr) (v : Byte) (r : Regs) :
    (MicroOp.writeCsr reg v).onRegs r = r.write reg v := rfl

@[simp] theorem foldl_onRegs_startingPoint (c : Config) (r : Regs) :
    (startingPoint c).foldl (fun r op => op.onRegs r) r = r := by
  unfold startingPoint rwLow
  split <;> rfl

@[simp] theorem foldl_onRegs_handshake (c : Config) (f : Byte) (r : Regs) :
    (handshake c f).foldl (fun r op => op.onRegs r) r = r := by
  unfold handshake sendFunctionSet
  split <;> simp

/-- Steps 3 to 9 write the display-control and the entry-mode flags and nothing else. -/
theorem foldl_onRegs_beginWaitAndTraffic (c : Config) (f : Byte) (r : Regs) :
    (beginWaitAndTraffic c f).foldl (fun r op => op.onRegs r) r =
      { r with displayControlFlags := c.codes.dcDisplay, entryModeFlags := c.codes.eLeft } := by
  simp [beginWaitAndTraffic, beginDefaults, sendFunctionSet]

/-- "whatever came before" (R107): the registers before do not matter. -/
theorem foldl_onRegs_beginOps (c : Config) (columns lines : Byte) (dots5x10 : Bool) (r : Regs) :
    (beginOps c columns lines dots5x10).foldl (fun r op => op.onRegs r) r = beginRegs c columns lines dots5x10 := by
  rw [beginOps, List.foldl_append, foldl_onRegs_beginRegisterWrites, foldl_onRegs_beginWaitAndTraffic]
  rfl

/-! ### `BEGIN` run to its end -/

/-- The operation accepted by a ready block and run to its end leaves a ready block of the same configuration. -/
theorem exec_begin_completes (s : State) (columns lines : Byte) (dots5x10 : Bool) (hready : s.cmdReady = true)
    (hranges : beginRangesHold columns lines = true) :
    ∃ t, exec (.begin columns lines dots5x10) s = .next t ∧ t.complete.cmdReady = true ∧ t.complete.cfg = s.cfg ∧
      t.complete.regs = beginRegs s.cfg columns lines dots5x10 ∧
      t.complete.trace = s.trace ++ traceOf (beginOps s.cfg columns lines dots5x10) := by
  obtain ⟨t, hexec, hcomplete⟩ := exec_completes (.begin columns lines dots5x10) s hranges hready
  obtain ⟨hrst, hpending⟩ := s.cmdReady_iff.mp hready
  refine ⟨t, hexec, ?_⟩
  rw [hcomplete, State.cmdReady_iff, opsOf]
  exact ⟨⟨by simpa using hrst, by simpa using hpending⟩, State.performAll_cfg s _,
    by rw [State.performAll_regs, foldl_onRegs_beginOps], State.performAll_trace _ s⟩

/-- Settles O25: one completed `BEGIN` from any ready state, used twice, the second time from the state the first leaves. -/
theorem beginRunAgain : Obligations.BeginRunAgain := by
  intro s columns lines dots5x10 hready hranges
  obtain ⟨t, hexec, hready', hcfg, hregs, htrace⟩ := exec_begin_completes s columns lines dots5x10 hready hranges
  obtain ⟨u, hexec', -, -, hregs', htrace'⟩ :=
    exec_begin_completes t.complete columns lines dots5x10 hready' hranges
  rw [hcfg] at hregs' htrace'
  exact ⟨t, u, hexec, hregs, htrace, hexec', hregs'.trans hregs.symm, htrace'⟩

end Sys2Proof.Machine
end

section
/-! PROOFS for 10_state.md sections 2 to 4 and 70_reset_and_hazards.md: every step keeps the invariant. The invariant speaks of
the configuration, the registers, the latches, the fault record, `pending` and `rst` alone; each thing a step can do is
one rule for `Inv`. -/

namespace Sys2Proof.Machine

/-! ### Legal registers -/

/-- Writing the display-control flags with their reserved bits 0. -/
theorem Regs.legal_setDisplayControl {c : Config} {r : Regs} {v : Byte} (h : r.legal c = true)
    (hv : v &&& 0xF8 = 0) : Regs.legal c { r with displayControlFlags := v } = true := by
  simp_all [Regs.legal]

/-- Writing the entry-mode flags with their reserved bits 0. -/
theorem Regs.legal_setEntryMode {c : Config} {r : Regs} {v : Byte} (h : r.legal c = true)
    (hv : v &&& 0xFC = 0) : Regs.legal c { r with entryModeFlags := v } = true := by
  simp_all [Regs.legal]

theorem Regs.reserved_of_legal {c : Config} {r : Regs} (h : r.legal c = true) :
    r.displayControlFlags &&& 0xF8 = 0 ∧ r.entryModeFlags &&& 0xFC = 0 := by
  simp_all [Regs.legal]

theorem setFlag_reserved {f m mask : Byte} (hf : f &&& mask = 0) (hm : m &&& mask = 0) :
    setFlag f m &&& mask = 0 := by
  rw [setFlag, BitVec.and_or_distrib_right, hf, hm]
  rfl

theorem clearFlag_reserved {f mask : Byte} (m : Byte) (hf : f &&& mask = 0) : clearFlag f m &&& mask = 0 := by
  rw [clearFlag, BitVec.and_assoc, BitVec.and_comm (~~~m), ← BitVec.and_assoc, hf]
  exact BitVec.zero_and

/-- The line counts a `BEGIN` admits (41_begin.md R108). -/
theorem lines_of_beginRangesHold {columns lines : Byte} (h : beginRangesHold columns lines = true) :
    lines = 1 ∨ lines = 2 ∨ lines = 3 ∨ lines = 4 := by
  simp only [beginRangesHold, Bool.and_eq_true, decide_eq_true_eq] at h
  bv_omega

/-- The registers of R100 steps 1 and 2 are legal beside legal display-control and entry-mode flags. -/
theorem Regs.legal_beginWrites {c : Config} {r : Regs} {columns lines : Byte} (dots5x10 : Bool) (hc : c.Standard)
    (h : r.legal c = true) (hranges : beginRangesHold columns lines = true) :
    Regs.legal c
      { beginRegs c columns lines dots5x10 with
        displayControlFlags := r.displayControlFlags
        entryModeFlags := r.entryModeFlags } = true := by
  obtain ⟨hdisplay, hentry⟩ := Regs.reserved_of_legal h
  obtain ⟨width, hasRw, timing, codes⟩ := c
  obtain ⟨rfl, rfl⟩ := hc
  obtain rfl | rfl | rfl | rfl := lines_of_beginRangesHold hranges <;>
  · cases width <;> cases dots5x10 <;>
      simp_all [Regs.legal, beginRegs, functionFlagsFor, interfaceFlag, flagWhen]

/-! ### Lists of legal micro-operations -/

theorem lowBits_toNat_lt (n : Nat) (v : Byte) : (lowBits n v).toNat < 2 ^ n := by
  rw [lowBits, BitVec.toNat_setWidth]
  exact (Nat.mod_le _ _).trans_lt (v.setWidth n).isLt

@[simp] theorem all_legal_writeBits {c : Config} {n : Nat} (v : Byte) (hn : n = c.width.nData) :
    (writeBits c v n).all (MicroOp.legal c) = true := by
  simp [writeBits, MicroOp.legal, hn, lowBits_toNat_lt]

@[simp] theorem all_legal_rwLow (c : Config) : (rwLow c).all (MicroOp.legal c) = true := by
  unfold rwLow
  split
  · simp_all [MicroOp.legal]
  · rfl

@[simp] theorem all_legal_transfers (c : Config) (v : Byte) : (transfers c v).all (MicroOp.legal c) = true := by
  unfold transfers
  split
  next h => rw [all_legal_writeBits v (by rw [h]; rfl)]
  next h => rw [List.all_append, all_legal_writeBits _ (by rw [h]; rfl), all_legal_writeBits _ (by rw [h]; rfl)]; rfl

@[simp] theorem all_legal_send (c : Config) (v : Byte) (mode : SendMode) :
    (send c v mode).all (MicroOp.legal c) = true := by
  simp only [send, List.all_append, all_legal_rwLow, all_legal_transfers, Bool.and_true]
  rfl

@[simp] theorem all_legal_startingPoint (c : Config) : (startingPoint c).all (MicroOp.legal c) = true := by
  simp only [startingPoint, List.all_append, all_legal_rwLow, Bool.and_true]
  rfl

theorem MicroOp.legal_wait (c : Config) (n : Nat) : MicroOp.legal c (.wait n) = true := rfl

@[simp] theorem all_legal_handshake (c : Config) (f : Byte) : (handshake c f).all (MicroOp.legal c) = true := by
  unfold handshake sendFunctionSet
  split
  next h => simp [h, Width.nData, MicroOp.legal_wait]
  next h => simp [MicroOp.legal_wait]

/-! ### Lists that an idle block may take into `pending` -/

/-- What `Inv` asks of the operation in progress, whatever the latches hold before it. -/
structure SettledOps (c : Config) (ops : List MicroOp) : Prop where
  legal : ops.all (MicroOp.legal c) = true
  settles : endsSettled c ops = true
  enableLow : ∀ p : Pins, (ops.foldl (fun p op => op.onPins p) p).en = .holds .low

theorem endsSettled_append (c : Config) (xs : List MicroOp) {ys : List MicroOp} (h : ys ≠ []) :
    endsSettled c (xs ++ ys) = endsSettled c ys := by
  rw [endsSettled, List.getLast?_append_of_ne_nil xs h]
  rfl

theorem ne_nil_of_endsSettled {c : Config} {ops : List MicroOp} (h : endsSettled c ops = true) : ops ≠ [] := by
  rintro rfl
  cases h

namespace SettledOps

variable {c : Config} {xs ys : List MicroOp}

/-- Legal micro-operations may come before. -/
theorem append_left (hx : xs.all (MicroOp.legal c) = true) (hy : SettledOps c ys) : SettledOps c (xs ++ ys) where
  legal := by rw [List.all_append, hx, hy.legal]; rfl
  settles := by rw [endsSettled_append c xs (ne_nil_of_endsSettled hy.settles)]; exact hy.settles
  enableLow p := by rw [List.foldl_append]; exact hy.enableLow _

theorem cons {op : MicroOp} (hop : op.legal c = true) (hy : SettledOps c ys) : SettledOps c (op :: ys) :=
  append_left (xs := [op]) (by simpa using hop) hy

/-- A wait at least as long as the settle time may come after. -/
theorem append_wait {n : Nat} (hx : SettledOps c xs) (hn : c.timing.tSettle ≤ n) : SettledOps c (xs ++ [.wait n]) where
  legal := by rw [List.all_append, hx.legal]; rfl
  settles := by rw [endsSettled_append c xs (List.cons_ne_nil _ _)]; simpa [endsSettled] using hn
  enableLow p := by rw [List.foldl_append]; exact hx.enableLow p

theorem writeBits (c : Config) (v : Byte) : SettledOps c (writeBits c v c.width.nData) where
  legal := all_legal_writeBits v rfl
  settles := by simp [endsSettled, Machine.writeBits]
  enableLow p := by rw [foldl_onPins_writeBits]; rfl

theorem transfers (c : Config) (v : Byte) : SettledOps c (transfers c v) := by
  have hpulse := writeBits c
  unfold Machine.transfers
  split
  next h => rw [h] at hpulse; exact hpulse v
  next h => rw [h] at hpulse; exact (hpulse v).append_left (hpulse (highNibble v)).legal

theorem send (c : Config) (v : Byte) (mode : SendMode) : SettledOps c (send c v mode) :=
  (transfers c v).append_left (by simp [MicroOp.legal])

/-- One send per byte, and at least one byte. -/
theorem flatMap_send (c : Config) (mode : SendMode) (v : Byte) (vs : List Byte) :
    SettledOps c ((v :: vs).flatMap fun b => Machine.send c b mode) := by
  induction vs generalizing v with
  | nil => simpa using send c v mode
  | cons w vs ih => exact (ih w).append_left (all_legal_send c v mode)

end SettledOps

/-! ### The operations' lists -/

theorem settledOps_displayControlOps (c : Config) {f : Byte} (hf : f &&& 0xF8 = 0) :
    SettledOps c (displayControlOps c f) :=
  (SettledOps.send c _ _).cons (by simpa [MicroOp.legal] using hf)

theorem settledOps_entryModeOps (c : Config) {f : Byte} (hf : f &&& 0xFC = 0) : SettledOps c (entryModeOps c f) :=
  (SettledOps.send c _ _).cons (by simpa [MicroOp.legal] using hf)

theorem tSettle_le_tClearHome {c : Config} (hc : c.Standard) :
    c.timing.tSettle ≤ c.timing.tClearHome := by
  obtain ⟨htiming, -⟩ := hc
  rw [htiming]
  decide

/-- The list of every operation but `BEGIN`, whose first writes are no micro-operations of `pending`. -/
theorem settledOps_opsOf {c : Config} {r : Regs} (hc : c.Standard) (hr : r.legal c = true) (i : Instr)
    (hi : i.opcode ≠ 0x01) : SettledOps c (opsOf c r i) := by
  obtain ⟨hdisplay, hentry⟩ := Regs.reserved_of_legal hr
  have hlong := tSettle_le_tClearHome hc
  obtain ⟨-, hcodes⟩ := hc
  cases i with
  | begin columns lines dots5x10 => exact absurd rfl hi
  | clear => exact (SettledOps.send c _ _).append_wait hlong
  | home => exact (SettledOps.send c _ _).append_wait hlong
  | setCursor col row => exact SettledOps.send c _ _
  | displayOn => exact settledOps_displayControlOps c (setFlag_reserved hdisplay (by rw [hcodes]; decide))
  | displayOff => exact settledOps_displayControlOps c (clearFlag_reserved _ hdisplay)
  | cursorOn => exact settledOps_displayControlOps c (setFlag_reserved hdisplay (by rw [hcodes]; decide))
  | cursorOff => exact settledOps_displayControlOps c (clearFlag_reserved _ hdisplay)
  | blinkOn => exact settledOps_displayControlOps c (setFlag_reserved hdisplay (by rw [hcodes]; decide))
  | blinkOff => exact settledOps_displayControlOps c (clearFlag_reserved _ hdisplay)
  | scrollLeft => exact SettledOps.send c _ _
  | scrollRight => exact SettledOps.send c _ _
  | textLtr => exact settledOps_entryModeOps c (setFlag_reserved hentry (by rw [hcodes]; decide))
  | textRtl => exact settledOps_entryModeOps c (clearFlag_reserved _ hentry)
  | autoscrollOn => exact settledOps_entryModeOps c (setFlag_reserved hentry (by rw [hcodes]; decide))
  | autoscrollOff => exact settledOps_entryModeOps c (clearFlag_reserved _ hentry)
  | createChar slot glyph => exact (SettledOps.flatMap_send c _ _ _).append_left (all_legal_send c _ _)
  | putc byte => exact SettledOps.send c _ _

/-- Steps 3 to 9 of a `BEGIN`: the last of them is a send. -/
theorem settledOps_beginWaitAndTraffic {c : Config} (hc : c.Standard) (f : Byte) :
    SettledOps c (beginWaitAndTraffic c f) := by
  obtain ⟨-, hcodes⟩ := hc
  have hdefaults : SettledOps c (beginDefaults c f) := by
    refine (SettledOps.send c _ _).append_left ?_
    simp only [sendFunctionSet, List.all_append, all_legal_send, hcodes, Bool.and_true, Bool.true_and]
    rfl
  refine hdefaults.append_left ?_
  simp only [List.all_append, List.all_cons, List.all_nil, all_legal_startingPoint, all_legal_handshake,
    MicroOp.legal_wait, Bool.and_true]

/-! ### Rules for `Inv` -/

theorem State.complete_pins (s : State) :
    s.complete.pins = s.pending.foldl (fun p op => op.onPins p) s.pins := by
  rw [State.complete, State.performAll_pins]

/-- Offered words, the host's script, trace, time and ended runs do not matter to `Inv`; `rst` may be released. -/
theorem Inv.of_same_block {s t : State} (h : Inv s) (hcfg : t.cfg = s.cfg) (hregs : t.regs = s.regs)
    (hpins : t.pins = s.pins) (hfault : t.fault = s.fault) (hpending : t.pending = s.pending)
    (hrst : t.rst = true → s.rst = true) : Inv t where
  standard := by rw [hcfg]; exact h.standard
  regs := by rw [hregs, hcfg]; exact h.regs
  pins := by rw [hpins, hcfg]; exact h.pins
  fault := by rw [hfault]; exact h.fault
  pendingLegal := by rw [hpending, hcfg]; exact h.pendingLegal
  pendingSettles := by rw [hpending, hcfg]; exact h.pendingSettles
  enableRests := by
    have hen := h.enableRests
    rw [State.complete_pins] at hen ⊢
    rwa [hpending, hpins]
  heldInReset hr := by
    have hreset := h.heldInReset (hrst hr)
    rw [State.atReset] at hreset ⊢
    rwa [hcfg, hregs, hpins, hfault, hpending]

theorem Regs.afterReset_legal {c : Config} (hc : c.Standard) : (Regs.afterReset c).legal c = true := by
  obtain ⟨width, hasRw, timing, codes⟩ := c
  obtain ⟨rfl, rfl⟩ := hc
  cases width <;> cases hasRw <;> decide

theorem Pins.afterReset_legal (c : Config) : (Pins.afterReset c).legal c = true := by
  cases h : c.hasRw <;> simp [Pins.legal, Pins.afterReset, h]

theorem State.atReset_iff (s : State) :
    s.atReset = true ↔ s.regs = Regs.afterReset s.cfg ∧ s.fault = FaultRecord.afterReset ∧
      s.pins = Pins.afterReset s.cfg ∧ s.pending = [] := by
  simp [State.atReset, and_assoc]

/-- The reset state, whatever was before (R170). -/
theorem Inv.of_atReset {s : State} (hc : s.cfg.Standard) (h : s.atReset = true) : Inv s := by
  obtain ⟨hregs, hfault, hpins, hpending⟩ := s.atReset_iff.mp h
  exact
    { standard := hc
      regs := by rw [hregs]; exact Regs.afterReset_legal hc
      pins := by rw [hpins]; exact Pins.afterReset_legal s.cfg
      fault := by rw [hfault]; rfl
      pendingLegal := by rw [hpending]; rfl
      pendingSettles := .inl hpending
      enableRests := by rw [s.complete_of_idle hpending, hpins]; exact nofun
      heldInReset := fun _ => h }

/-- A fault record that the host's word can cause (R152). -/
theorem Inv.raiseIllegal {s : State} {cause : IllegalCause} {opcode : Byte} (h : Inv s) (hrst : s.rst = false)
    (hlegal : FaultRecord.legal ⟨true, IllegalCause.code cause, opcode⟩ = true) : Inv (s.raiseIllegal cause opcode) := by
  unfold State.raiseIllegal
  split
  · exact h
  · exact ⟨h.standard, h.regs, h.pins, hlegal, h.pendingLegal, h.pendingSettles,
      by simpa [State.complete_pins] using h.enableRests, fun hr => by simp [hrst] at hr⟩

/-- A settled list taken into `pending`. -/
theorem Inv.setPending {s : State} {ops : List MicroOp} (h : Inv s) (hrst : s.rst = false)
    (hops : SettledOps s.cfg ops) : Inv { s with pending := ops } where
  standard := h.standard
  regs := h.regs
  pins := h.pins
  fault := h.fault
  pendingLegal := hops.legal
  pendingSettles := .inr hops.settles
  enableRests := by rw [State.complete_pins, hops.enableLow]; exact nofun
  heldInReset hr := by simp [hrst] at hr

/-- Legal registers written between two operations, or at the first moment of one. -/
theorem Inv.setRegs {s : State} {r : Regs} (h : Inv s) (hrst : s.rst = false) (hr : r.legal s.cfg = true) :
    Inv { s with regs := r } where
  standard := h.standard
  regs := hr
  pins := h.pins
  fault := h.fault
  pendingLegal := h.pendingLegal
  pendingSettles := h.pendingSettles
  enableRests := by simpa [State.complete_pins] using h.enableRests
  heldInReset hreset := by simp [hrst] at hreset

theorem MicroOp.onRegs_legal {c : Config} {op : MicroOp} {r : Regs} (hop : op.legal c = true)
    (h : r.legal c = true) : (op.onRegs r).legal c = true := by
  cases op with
  | setPin pin l => exact h
  | drive n v => exact h
  | wait n => exact h
  | writeCsr reg v =>
    cases reg with
    | displayControlFlags => exact Regs.legal_setDisplayControl h (by simpa [MicroOp.legal] using hop)
    | entryModeFlags => exact Regs.legal_setEntryMode h (by simpa [MicroOp.legal] using hop)
    | functionFlags => cases hop
    | lineCount => cases hop
    | rowOffset row => cases hop

theorem MicroOp.onPins_legal {c : Config} {op : MicroOp} {p : Pins} (hop : op.legal c = true)
    (h : p.legal c = true) : (op.onPins p).legal c = true := by
  cases op with
  | drive n v => simpa [MicroOp.onPins, Pins.legal] using h
  | wait n => exact h
  | writeCsr reg v => exact h
  | setPin pin l =>
    cases pin with
    | rs => exact h
    | en => exact h
    | rw =>
      obtain ⟨-, rfl⟩ : c.hasRw = true ∧ l = .low := by simpa [MicroOp.legal] using hop
      cases hrw : p.rw <;> simp_all [MicroOp.onPins, Pins.legal]

/-- The sequencer's step on the operation in progress (R35). -/
theorem Inv.perform {s : State} {op : MicroOp} {rest : List MicroOp} (h : Inv s) (hrst : s.rst = false)
    (hpending : s.pending = op :: rest) : Inv (State.perform { s with pending := rest } op) := by
  have hlegal := h.pendingLegal
  rw [hpending, List.all_cons, Bool.and_eq_true] at hlegal
  obtain ⟨hop, hrest⟩ := hlegal
  exact
    { standard := h.standard
      regs := MicroOp.onRegs_legal hop h.regs
      pins := MicroOp.onPins_legal hop h.pins
      fault := h.fault
      pendingLegal := hrest
      pendingSettles := by
        refine (eq_or_ne rest []).imp_right fun hne => ?_
        have hsettles := h.pendingSettles.resolve_left (by simp [hpending])
        rw [hpending] at hsettles
        exact (endsSettled_append s.cfg [op] hne).symm.trans hsettles
      enableRests := by rw [State.complete_step s op rest hpending]; exact h.enableRests
      heldInReset := fun hreset => by simp [hrst] at hreset }

/-! ### One step -/

/-- The acceptance of a `BEGIN`: a fault when its operands are out of range, or the registers of R100 steps 1 and 2 at
once and the rest pending. -/
theorem Inv.exec_begin {s t : State} {columns lines : Byte} {dots5x10 : Bool} (h : Inv s) (hready : s.cmdReady = true)
    (ht : exec (.begin columns lines dots5x10) s = .next t) : Inv t := by
  obtain ⟨hrst, -⟩ := s.cmdReady_iff.mp hready
  cases hranges : beginRangesHold columns lines with
  | false =>
    have hill : illegalBegin columns lines = true := by rw [illegalBegin_eq, hranges]; rfl
    obtain rfl : s.raiseIllegal .illegalOperand 0x01 = t := by simpa [exec, execBegin, hill, hready] using ht
    exact h.raiseIllegal hrst rfl
  | true =>
    have hregs := h.setRegs hrst (Regs.legal_beginWrites dots5x10 h.standard h.regs hranges)
    have hwrites : Inv (s.performAll (beginRegisterWrites s.cfg columns lines dots5x10)) :=
      hregs.of_same_block rfl rfl rfl rfl rfl id
    rw [execBegin_of_ranges _ _ _ _ hranges, State.acceptAfter_ready _ _ _ hready] at ht
    obtain rfl := Host.Outcome.next.inj ht
    exact hwrites.setPending hrst (settledOps_beginWaitAndTraffic h.standard _)

/-- An operation offered to the block (R31, R35). -/
theorem Inv.exec {s t : State} {i : Instr} (h : Inv s) (ht : exec i s = .next t) : Inv t := by
  cases hready : s.cmdReady with
  | false =>
    rw [exec_not_ready i s hready] at ht
    obtain rfl := Host.Outcome.next.inj ht
    exact h
  | true =>
    obtain ⟨hrst, -⟩ := s.cmdReady_iff.mp hready
    cases i
    case begin columns lines dots5x10 => exact h.exec_begin hready ht
    all_goals
      rw [exec_of_not_begin _ s (by simp [Instr.opcode]), State.accept_ready s _ hready] at ht
      obtain rfl := Host.Outcome.next.inj ht
      exact h.setPending hrst (settledOps_opsOf h.standard h.regs _ (by simp [Instr.opcode]))

/-- Every fault that a word causes is recorded with an opcode that can cause it (R152). -/
theorem faultRecord_legal_of_decode {w : CommandWord} {cause : IllegalCause} (h : decode w = .illegal cause) :
    FaultRecord.legal ⟨true, IllegalCause.code cause, fieldOpcode w⟩ = true := by
  obtain ⟨rfl, hzero | hhigh⟩ | ⟨rfl, hbegin, -⟩ := decode_illegal_cases h
  · rw [hzero]; rfl
  · simp [FaultRecord.legal, IllegalCause.code, hhigh]
  · rw [hbegin]; rfl

theorem Inv.acceptWord {s t : State} {w : CommandWord} (h : Inv s) (hrst : s.rst = false)
    (ht : acceptWord w s = .next t) : Inv t := by
  unfold Machine.acceptWord at ht
  split at ht
  next i _ => exact h.exec ht
  next cause hill =>
    obtain rfl := Host.Outcome.next.inj ht
    exact h.raiseIllegal hrst (faultRecord_legal_of_decode hill)

theorem Inv.blockStep {s t : State} (h : Inv s) (ht : blockStep s = .next t) : Inv t := by
  obtain ⟨-, hstep⟩ | ⟨hrst, op, rest, hpending, hstep⟩ | ⟨-, -, -, hstep⟩ | ⟨hrst, -, w, ws, -, hstep⟩ :=
      blockStep_cases s <;> rw [hstep] at ht
  case inr.inr.inr =>
    have hpopped : Inv { s with words := ws } := h.of_same_block rfl rfl rfl rfl rfl id
    exact hpopped.acceptWord hrst ht
  all_goals obtain rfl := Host.Outcome.next.inj ht
  · exact .of_atReset h.standard ((State.atReset_iff _).mpr ⟨rfl, rfl, rfl, rfl⟩)
  · exact h.perform hrst hpending
  · exact h

/-- The host's move on `rst`: only an assertion outside reset changes the block, and that is a reset. -/
theorem Inv.sampleReset {s : State} (h : Inv s) : Inv s.sampleReset := by
  obtain ⟨-, hs⟩ | ⟨rest, -, hs⟩ | ⟨d, rest, -, hs⟩ | ⟨rest, -, hs⟩ := s.sampleReset_cases <;> rw [hs]
  · exact h
  · exact h.of_same_block rfl rfl rfl rfl rfl id
  · unfold State.assertReset
    split
    · exact h.of_same_block rfl rfl rfl rfl rfl id
    · exact .of_atReset h.standard ((State.atReset_iff _).mpr ⟨rfl, rfl, rfl, rfl⟩)
  · exact h.of_same_block rfl rfl rfl rfl rfl nofun

/-- Settles O38: the host's move, then the block's step, each by its own cases. -/
theorem stepKeepsInvariant : Obligations.StepKeepsInvariant :=
  fun _ _ h hstep => h.sampleReset.blockStep hstep

end Sys2Proof.Machine
end

section
/-! PROOFS for 42_cursor_commands.md: `CLEAR`, `HOME` and `SET_CURSOR` (R110 to R112), each one command send, the first two
with a long wait after it. -/

namespace Sys2Proof.Machine

/-! ### What a ready block answers, and for how long -/

/-- Every operation but `BEGIN`, taken by a ready block: its list pends and nothing else changes (10_state.md R35). -/
theorem exec_of_ready {s : State} {i : Instr} (hi : i.opcode ≠ 0x01) (hready : s.cmdReady = true) :
    exec i s = .next { s with pending := opsOf s.cfg s.regs i } := by
  rw [exec_of_not_begin i s hi, State.accept_ready s _ hready]

/-- A list taken by a ready block lasts at least the sum of its waits (R14), found for each width. -/
theorem lastsAtLeast_of_leastTime {s : State} {ops : List MicroOp} {fourBit eightBit : Nat} (hready : s.cmdReady = true)
    (hfour : s.cfg.timing = {} → s.cfg.width = .fourBit → leastTime ops = fourBit)
    (height : s.cfg.timing = {} → s.cfg.width = .eightBit → leastTime ops = eightBit) :
    LastsAtLeast s { s with pending := ops } fourBit eightBit := by
  intro htiming
  rw [← s.accept_ready ops hready, s.complete_accept ops hready]
  have hleast := s.leastTime_le_performAll ops
  cases hwidth : s.cfg.width with
  | fourBit => rwa [hfour htiming hwidth] at hleast
  | eightBit => rwa [height htiming hwidth] at hleast

/-- The two transfers of a byte on four data pins, with the default constants. -/
theorem leastTime_send_fourBit {c : Config} (v : Byte) (mode : SendMode) (htiming : c.timing = {})
    (hwidth : c.width = .fourBit) : leastTime (send c v mode) = 204 := by
  rw [leastTime_send, hwidth, htiming]
  rfl

/-- The one transfer of a byte on eight data pins, with the default constants. -/
theorem leastTime_send_eightBit {c : Config} (v : Byte) (mode : SendMode) (htiming : c.timing = {})
    (hwidth : c.width = .eightBit) : leastTime (send c v mode) = 102 := by
  rw [leastTime_send, hwidth, htiming]
  rfl

theorem leastTime_append_wait (ops : List MicroOp) (n : Nat) : leastTime (ops ++ [.wait n]) = leastTime ops + n :=
  leastTime_append ops [.wait n]

theorem lastsAtLeast_send {s : State} (v : Byte) (mode : SendMode) (hready : s.cmdReady = true) :
    LastsAtLeast s { s with pending := send s.cfg v mode } 204 102 :=
  lastsAtLeast_of_leastTime hready (leastTime_send_fourBit v mode) (leastTime_send_eightBit v mode)

theorem lastsAtLeast_send_clearHome {s : State} (v : Byte) (mode : SendMode) (hready : s.cmdReady = true) :
    LastsAtLeast s { s with pending := send s.cfg v mode ++ [.wait s.cfg.timing.tClearHome] } 2204 2102 := by
  refine lastsAtLeast_of_leastTime hready (fun htiming hwidth => ?_) (fun htiming hwidth => ?_)
  · rw [leastTime_append_wait, leastTime_send_fourBit v mode htiming hwidth, htiming]
    rfl
  · rw [leastTime_append_wait, leastTime_send_eightBit v mode htiming hwidth, htiming]
    rfl

/-! ### `CLEAR` and `HOME` -/

/-- Settles O16: the opcodes by the decoder's table; each operation is taken as its list, whose waits are a send's and
`T_CLEAR_HOME`. -/
theorem clearAndHome : Obligations.ClearAndHome := by
  refine ⟨fun w => ?clearWord, fun w => ?homeWord, fun s hready => ⟨?clear, ?home⟩⟩
  case clearWord =>
    obtain ⟨-, -, -, hclear, -⟩ := decodingIsTotal w
    exact hclear
  case homeWord =>
    obtain ⟨-, -, -, -, hhome, -⟩ := decodingIsTotal w
    exact hhome
  case clear => exact ⟨_, exec_of_ready (by decide) hready, rfl, lastsAtLeast_send_clearHome _ _ hready⟩
  case home => exact ⟨_, exec_of_ready (by decide) hready, rfl, lastsAtLeast_send_clearHome _ _ hready⟩

/-! ### `SET_CURSOR` -/

theorem exec_setCursor_of_ready {s : State} (col row : Byte) (hready : s.cmdReady = true) :
    exec (.setCursor col row) s = .next { s with pending := setCursorOps s.cfg s.regs col row } :=
  exec_of_ready (by simp [Instr.opcode]) hready

/-- `ROW_OFFSET[r]` by the number `r`. -/
theorem RowTable.entry_cases (t : RowTable) (r : Fin 4) :
    (r.val = 0 ∧ t.entry r = t.row0) ∨ (r.val = 1 ∧ t.entry r = t.row1) ∨
    (r.val = 2 ∧ t.entry r = t.row2) ∨ (r.val = 3 ∧ t.entry r = t.row3) := by
  match r with
  | 0 => exact .inl ⟨rfl, rfl⟩
  | 1 => exact .inr (.inl ⟨rfl, rfl⟩)
  | 2 => exact .inr (.inr (.inl ⟨rfl, rfl⟩))
  | 3 => exact .inr (.inr (.inr ⟨rfl, rfl⟩))

/-- A block of one line has one row. -/
theorem clampedRow_one_line (row : Byte) : clampedRow row 1 = 0 :=
  Fin.ext (by simp [clampedRow])

/-- Before any `BEGIN` there is one line and its row starts at address 0 (R112 d). -/
theorem ddramAddress_afterReset {c : Config} (hcodes : c.codes = {}) (col row : Byte) :
    ddramAddress (Regs.afterReset c) col row = col := by
  have hrow : clampedRow row (Regs.afterReset c).lineCount = 0 := clampedRow_one_line row
  have hoffset : (Regs.afterReset c).rowOffset.entry 0 = 0 := congrArg Codes.rowBase0 hcodes
  rw [ddramAddress, hrow, hoffset]
  exact BitVec.zero_add col

theorem setCursorOps_afterReset {c : Config} (hcodes : c.codes = {}) (col row : Byte) :
    setCursorOps c (Regs.afterReset c) col row = send c (0x80 ||| col) .command := by
  rw [setCursorOps, ddramAddress_afterReset hcodes, hcodes]

/-- Settles O17: the list pends with the row and its offset as the clamp and the table give them; in the reset state both are
those of row 0. -/
theorem setCursorSendsAddress : Obligations.SetCursorSendsAddress := by
  refine ⟨fun w => ?word, fun s col row hready _ => ?taken, ?atReset⟩
  case word =>
    obtain ⟨-, -, -, -, -, hsetCursor, -⟩ := decodingIsTotal w
    exact hsetCursor
  case taken =>
    exact ⟨_, _, _, exec_setCursor_of_ready col row hready, rfl,
      s.regs.rowOffset.entry_cases (clampedRow row s.regs.lineCount), rfl, lastsAtLeast_send _ _ hready⟩
  case atReset =>
    rintro c col row ⟨-, hcodes⟩
    have hready : (State.resetOf c).cmdReady = true := rfl
    rw [exec_setCursor_of_ready col row hready, ← setCursorOps_afterReset hcodes col row]
    rfl

end Sys2Proof.Machine
end

section
/-! PROOFS for 43_display_commands.md: the six display-flag operations, each a flag write and the send of the flags (R120 to
R125), and the two scroll operations, each a send alone (R126, R127). -/

namespace Sys2Proof.Machine

/-! ### The opcodes -/

/-- The rows 0x05 to 0x0C of the opcode table (30_encoding.md R72). -/
theorem opcodeSelects_displayCommands :
    OpcodeSelects 0x05 .displayOn ∧ OpcodeSelects 0x06 .displayOff ∧ OpcodeSelects 0x07 .cursorOn ∧
    OpcodeSelects 0x08 .cursorOff ∧ OpcodeSelects 0x09 .blinkOn ∧ OpcodeSelects 0x0A .blinkOff ∧
    OpcodeSelects 0x0B .scrollLeft ∧ OpcodeSelects 0x0C .scrollRight := by
  simp only [OpcodeSelects, ← forall_and]
  intro w
  obtain ⟨-, -, -, -, -, -, hdisplayOn, hdisplayOff, hcursorOn, hcursorOff, hblinkOn, hblinkOff, hleft, hright, -⟩ :=
    decodingIsTotal w
  exact ⟨hdisplayOn, hdisplayOff, hcursorOn, hcursorOff, hblinkOn, hblinkOff, hleft, hright⟩

/-! ### A register write and then a send -/

theorem leastTime_writeCsr_cons (reg : Csr) (f : Byte) (ops : List MicroOp) :
    leastTime (.writeCsr reg f :: ops) = leastTime ops :=
  Nat.zero_add _

theorem foldl_onRegs_writeCsr_send (c : Config) (reg : Csr) (f v : Byte) (mode : SendMode) (r : Regs) :
    (MicroOp.writeCsr reg f :: send c v mode).foldl (fun r op => op.onRegs r) r = r.write reg f := by
  rw [List.foldl_cons, foldl_onRegs_send, MicroOp.onRegs_writeCsr]

/-- A ready block's registers at the end of a list it takes (R37). -/
theorem complete_regs_of_ready {s : State} (ops : List MicroOp) (hready : s.cmdReady = true) :
    State.regs (State.complete { s with pending := ops }) = ops.foldl (fun r op => op.onRegs r) s.regs := by
  rw [← s.accept_ready ops hready, s.complete_accept ops hready, State.performAll_regs]

theorem lastsAtLeast_writeCsr_send {s : State} (reg : Csr) (f v : Byte) (mode : SendMode) (hready : s.cmdReady = true) :
    LastsAtLeast s { s with pending := .writeCsr reg f :: send s.cfg v mode } 204 102 := by
  refine lastsAtLeast_of_leastTime hready (fun htiming hwidth => ?_) (fun htiming hwidth => ?_)
  · rw [leastTime_writeCsr_cons, leastTime_send_fourBit v mode htiming hwidth]
  · rw [leastTime_writeCsr_cons, leastTime_send_eightBit v mode htiming hwidth]

/-- An operation whose list is a register write and a send, taken by a ready block: the list pends, the register alone
changes, and the write takes no time. -/
theorem exec_writeCsr_send_of_ready {s : State} {i : Instr} {reg : Csr} {f v : Byte} {mode : SendMode}
    (hi : i.opcode ≠ 0x01) (hops : opsOf s.cfg s.regs i = .writeCsr reg f :: send s.cfg v mode)
    (hready : s.cmdReady = true) :
    ∃ t, exec i s = .next t ∧ t = { s with pending := .writeCsr reg f :: send s.cfg v mode } ∧
      t.complete.regs = s.regs.write reg f ∧ LastsAtLeast s t 204 102 := by
  refine ⟨_, exec_of_ready hi hready, by rw [hops], ?_, ?_⟩
  · rw [complete_regs_of_ready _ hready, hops, foldl_onRegs_writeCsr_send]
  · rw [hops]
    exact lastsAtLeast_writeCsr_send reg f v mode hready

/-! ### The six flag operations -/

/-- Settles O19: each operation's list is the write of its flag byte and the send of it, whatever the flags were before. -/
theorem displayFlagOperations : Obligations.DisplayFlagOperations := by
  obtain ⟨hdisplayOn, hdisplayOff, hcursorOn, hcursorOff, hblinkOn, hblinkOff, -⟩ := opcodeSelects_displayCommands
  refine ⟨hdisplayOn, hdisplayOff, hcursorOn, hcursorOff, hblinkOn, hblinkOff, fun s hready i f hmem => ?_⟩
  have hlist : i.opcode ≠ 0x01 ∧ opsOf s.cfg s.regs i = displayControlOps s.cfg f := by
    simp only [List.mem_cons, Prod.mk.injEq, List.not_mem_nil, or_false] at hmem
    obtain ⟨rfl, rfl⟩ | ⟨rfl, rfl⟩ | ⟨rfl, rfl⟩ | ⟨rfl, rfl⟩ | ⟨rfl, rfl⟩ | ⟨rfl, rfl⟩ := hmem
    all_goals exact ⟨by decide, rfl⟩
  obtain ⟨hopcode, hops⟩ := hlist
  exact exec_writeCsr_send_of_ready hopcode hops hready

/-! ### The two scroll operations -/

/-- Settles O20: each operation's list is its one send. -/
theorem scrollOperations : Obligations.ScrollOperations := by
  obtain ⟨-, -, -, -, -, -, hleft, hright⟩ := opcodeSelects_displayCommands
  refine ⟨hleft, hright, fun s hready => ⟨?left, ?right⟩⟩
  case left => exact ⟨_, exec_of_ready (by decide) hready, rfl, lastsAtLeast_send _ _ hready⟩
  case right => exact ⟨_, exec_of_ready (by decide) hready, rfl, lastsAtLeast_send _ _ hready⟩

end Sys2Proof.Machine
end

section
/-! PROOFS for 44_entry_mode_commands.md: the four entry-mode operations, each a flag write and the send of the flags (R130
to R133). -/

namespace Sys2Proof.Machine

/-- The rows 0x0D to 0x10 of the opcode table (30_encoding.md R72). -/
theorem opcodeSelects_entryModeCommands :
    OpcodeSelects 0x0D .textLtr ∧ OpcodeSelects 0x0E .textRtl ∧ OpcodeSelects 0x0F .autoscrollOn ∧
    OpcodeSelects 0x10 .autoscrollOff := by
  simp only [OpcodeSelects, ← forall_and]
  intro w
  obtain ⟨-, -, -, -, -, -, -, -, -, -, -, -, -, -, htextLtr, htextRtl, hautoscrollOn, hautoscrollOff, -⟩ :=
    decodingIsTotal w
  exact ⟨htextLtr, htextRtl, hautoscrollOn, hautoscrollOff⟩

/-- Settles O21: each operation's list is the write of its flag byte and the send of it, whatever the flags were before. -/
theorem entryModeOperations : Obligations.EntryModeOperations := by
  obtain ⟨htextLtr, htextRtl, hautoscrollOn, hautoscrollOff⟩ := opcodeSelects_entryModeCommands
  refine ⟨htextLtr, htextRtl, hautoscrollOn, hautoscrollOff, fun s hready i f hmem => ?_⟩
  have hlist : i.opcode ≠ 0x01 ∧ opsOf s.cfg s.regs i = entryModeOps s.cfg f := by
    simp only [List.mem_cons, Prod.mk.injEq, List.not_mem_nil, or_false] at hmem
    obtain ⟨rfl, rfl⟩ | ⟨rfl, rfl⟩ | ⟨rfl, rfl⟩ | ⟨rfl, rfl⟩ := hmem
    all_goals exact ⟨by decide, rfl⟩
  obtain ⟨hopcode, hops⟩ := hlist
  exact exec_writeCsr_send_of_ready hopcode hops hready

end Sys2Proof.Machine
end

section
/-! PROOFS for 45_data_commands.md: `CREATE_CHAR`, an address command and the eight glyph rows as data (R140), and `PUTC`, one
data send (R142). -/

namespace Sys2Proof.Machine

/-! ### How long a run of sends lasts -/

/-- Sends that last `n` each last `n` times their number. -/
theorem leastTime_flatMap_send {c : Config} {mode : SendMode} {n : Nat} (hsend : ∀ v, leastTime (send c v mode) = n)
    (vs : List Byte) : leastTime (vs.flatMap fun v => send c v mode) = vs.length * n := by
  induction vs with
  | nil => simp [leastTime]
  | cons v vs ih => rw [List.flatMap_cons, leastTime_append, hsend, ih, List.length_cons, Nat.succ_mul, Nat.add_comm]

/-! ### `CREATE_CHAR` -/

/-- The slot acts modulo 8: only its low three bits reach the address (20_memory.md R52). -/
theorem cgramAddress_and_seven (slot : Byte) : cgramAddress (slot &&& 0x07) = cgramAddress slot := by
  rw [cgramAddress, cgramAddress, BitVec.and_assoc, BitVec.and_self]

theorem createCharOps_and_seven (c : Config) (slot : Byte) (g : Glyph) :
    createCharOps c (slot &&& 0x07) g = createCharOps c slot g := by
  rw [createCharOps, createCharOps, cgramAddress_and_seven]

/-- The nine sends written out, row 0 first. -/
theorem createCharOps_eq_sends (c : Config) (slot : Byte) (g : Glyph) :
    createCharOps c slot g =
      send c (c.codes.kSetCgram ||| ((slot &&& 0x07) <<< 3)) .command ++
      send c g.r0 .data ++ send c g.r1 .data ++ send c g.r2 .data ++ send c g.r3 .data ++
      send c g.r4 .data ++ send c g.r5 .data ++ send c g.r6 .data ++ send c g.r7 .data := by
  simp [createCharOps, glyphRows, cgramAddress]

/-- Nine sends of equal length, whatever the slot and the rows. -/
theorem leastTime_createCharOps {c : Config} {n : Nat} (hsend : ∀ v mode, leastTime (send c v mode) = n) (slot : Byte)
    (g : Glyph) : leastTime (createCharOps c slot g) = 9 * n := by
  have hrows := leastTime_flatMap_send (hsend · .data) (glyphRows g)
  have hlength : (glyphRows g).length = 8 := rfl
  rw [createCharOps, leastTime_append, hsend, hrows, hlength]
  omega

theorem exec_createChar_of_ready {s : State} (slot : Byte) (g : Glyph) (hready : s.cmdReady = true) :
    exec (.createChar slot g) s = .next { s with pending := createCharOps s.cfg slot g } :=
  exec_of_ready (by simp [Instr.opcode]) hready

theorem lastsAtLeast_createCharOps {s : State} (slot : Byte) (g : Glyph) (hready : s.cmdReady = true) :
    LastsAtLeast s { s with pending := createCharOps s.cfg slot g } 1836 918 :=
  lastsAtLeast_of_leastTime hready
    (fun htiming hwidth => leastTime_createCharOps (leastTime_send_fourBit · · htiming hwidth) slot g)
    (fun htiming hwidth => leastTime_createCharOps (leastTime_send_eightBit · · htiming hwidth) slot g)

/-- Settles O22: the word by the decoder's table; the list is nine sends, and it is the same list for the slot modulo 8. -/
theorem createCharSendsGlyph : Obligations.CreateCharSendsGlyph := by
  refine ⟨fun w => ?word, fun s slot g hready =>
    ⟨_, exec_createChar_of_ready slot g hready, ?pending, ?slotModEight, lastsAtLeast_createCharOps slot g hready⟩⟩
  case word =>
    obtain ⟨-, -, -, -, -, -, -, -, -, -, -, -, -, -, -, -, -, -, hcreateChar, -⟩ := decodingIsTotal w
    exact hcreateChar
  case pending => rw [createCharOps_eq_sends]
  case slotModEight => rw [exec_createChar_of_ready _ g hready, createCharOps_and_seven]

/-! ### `PUTC` -/

/-- Settles O23: the word by the decoder's table; the list is the one data send of the byte itself. -/
theorem putcSendsByte : Obligations.PutcSendsByte := by
  refine ⟨fun w => ?_, fun s byte hready =>
    ⟨_, exec_of_ready (by simp [Instr.opcode]) hready, rfl, lastsAtLeast_send byte .data hready⟩⟩
  obtain ⟨-, -, -, -, -, -, -, -, -, -, -, -, -, -, -, -, -, -, -, hputc⟩ := decodingIsTotal w
  exact hputc

end Sys2Proof.Machine
end

section
/-! PROOFS for 60_exceptions.md: what the step leaves of an illegal word, a fault record and nothing else (R152). -/

namespace Sys2Proof.Machine

/-- An idle block out of reset takes the word on its port (10_state.md R35). -/
theorem blockStep_of_offered {s : State} {w : CommandWord} {ws : List CommandWord} (hrst : s.rst = false)
    (hpending : s.pending = []) (hwords : s.words = w :: ws) :
    blockStep s = acceptWord w { s with words := ws } := by
  simp [blockStep, hrst, hpending, hwords]

theorem acceptWord_illegal {w : CommandWord} {cause : IllegalCause} (h : decode w = .illegal cause) (s : State) :
    acceptWord w s = .next (s.raiseIllegal cause (fieldOpcode w)) := by
  rw [acceptWord, h]

/-- The whole effect of a fault: the record alone is written, and only the first time. -/
theorem State.raiseIllegal_eq (s : State) (cause : IllegalCause) (opcode : Byte) :
    s.raiseIllegal cause opcode =
      { s with fault := if s.fault.fault then s.fault else ⟨true, IllegalCause.code cause, opcode⟩ } := by
  unfold State.raiseIllegal
  split <;> rfl

/-- Settles O29: the cause by inversion of the decoder, the step by the word's acceptance. -/
theorem illegalWordIsRecorded : Obligations.IllegalWordIsRecorded := by
  rintro s u w ws cause rfl hrst hpending hwords hill
  refine ⟨?cause, ?step⟩
  case cause =>
    obtain hopcode | ⟨hcause, hbegin, hoperands⟩ := decode_illegal_cases hill
    · exact .inl hopcode
    · exact .inr ⟨hcause, hbegin, (illegalBegin_iff _ _).mp hoperands⟩
  case step =>
    rw [step, blockStep_of_offered hrst hpending hwords, acceptWord_illegal hill, State.raiseIllegal_eq]
    cases cause <;> rfl

end Sys2Proof.Machine
end

section
/-! PROOFS for 30_encoding.md part 1: the decoder and the encoder are inverse to each other up to the bits a format ignores
(R70 to R74). Both sides say the same of a word: its opcode is the operation's, and its fields hold the operands. -/

namespace Sys2Proof

/-! ### A word by its three fields -/

theorem append_eq_append_iff {m n : Nat} {x x' : BitVec m} {y y' : BitVec n} :
    x ++ y = x' ++ y' ↔ x = x' ∧ y = y' := by
  refine ⟨fun h => ⟨?high, ?low⟩, fun ⟨hx, hy⟩ => by rw [hx, hy]⟩
  case high => simpa only [BitVec.extractLsb'_append_eq_left] using congrArg (BitVec.extractLsb' n m) h
  case low => simpa only [BitVec.extractLsb'_append_eq_right] using congrArg (BitVec.extractLsb' 0 n) h

/-- A word is its three fields (R70). -/
theorem append_fields (w : CommandWord) : fieldOpcode w ++ fieldA w ++ fieldG w = w := by
  rw [fieldOpcode, fieldA, fieldG, BitVec.extractLsb'_append_extractLsb'_eq_extractLsb' (start₂ := 72) rfl]
  exact BitVec.extractLsb'_append_extractLsb'

/-! ### The bits a format uses, by field (R71) -/

/-- The bits of `a` that an operation's format reads. -/
def Instr.usedA : Instr → Byte
  | .begin _ _ _ | .setCursor _ _ | .createChar _ _ | .putc _ => BitVec.allOnes 8
  | _ => 0

/-- The bits of `g` that an operation's format reads. -/
def Instr.usedG : Instr → BitVec 64
  | .begin _ _ _ => (0 : BitVec 55) ++ BitVec.allOnes 1 ++ BitVec.allOnes 8
  | .setCursor _ _ => (0 : BitVec 56) ++ BitVec.allOnes 8
  | .createChar _ _ => BitVec.allOnes 64
  | _ => 0

theorem Instr.usedBits_eq_append (i : Instr) : i.usedBits = BitVec.allOnes 8 ++ i.usedA ++ i.usedG := by
  cases i <;> simp only [usedBits, usedA, usedG] <;> decide

theorem and_usedBits (w : CommandWord) (i : Instr) :
    w &&& i.usedBits = fieldOpcode w ++ (fieldA w &&& i.usedA) ++ (fieldG w &&& i.usedG) := by
  conv_lhs => rw [← append_fields w, i.usedBits_eq_append]
  refine BitVec.and_append.trans ?_
  rw [BitVec.and_append, BitVec.and_allOnes]

/-! ### The operands an operation is written with and the fields they are read from -/

/-- `g[7:0]`, the rest ignored (format P). -/
theorem zero_append_eq_and_iff (row : Byte) (g : BitVec 64) :
    (0 : BitVec 56) ++ row = g &&& ((0 : BitVec 56) ++ BitVec.allOnes 8) ↔ row = g.extractLsb' 0 8 := by
  have hg : g.extractLsb' 8 56 ++ g.extractLsb' 0 8 = g := BitVec.extractLsb'_append_extractLsb'
  conv_lhs => rw [← hg]
  rw [BitVec.and_append, append_eq_append_iff, BitVec.and_allOnes]
  exact and_iff_right BitVec.and_zero.symm

theorem extractLsb'_one_eq_ofBool (g : BitVec 64) (i : Nat) : g.extractLsb' i 1 = BitVec.ofBool (g.getLsbD i) := by
  rw [← BitVec.setWidth_eq (g.extractLsb' i 1), BitVec.setWidth_one]
  simp

/-- `g[8:0]`, the rest ignored (format G). -/
theorem zero_append_ofBool_append_eq_and_iff (d : Bool) (lines : Byte) (g : BitVec 64) :
    (0 : BitVec 55) ++ BitVec.ofBool d ++ lines =
        g &&& ((0 : BitVec 55) ++ BitVec.allOnes 1 ++ BitVec.allOnes 8) ↔
      lines = g.extractLsb' 0 8 ∧ d = g.getLsbD 8 := by
  have hg : g.extractLsb' 9 55 ++ g.extractLsb' 8 1 ++ g.extractLsb' 0 8 = g := by
    rw [BitVec.extractLsb'_append_extractLsb'_eq_extractLsb' (start₂ := 9) rfl]
    exact BitVec.extractLsb'_append_extractLsb'
  conv_lhs => rw [← hg]
  rw [BitVec.and_append, BitVec.and_append, append_eq_append_iff, append_eq_append_iff, extractLsb'_one_eq_ofBool,
    BitVec.and_allOnes, BitVec.and_allOnes, BitVec.ofBool_eq_iff_eq]
  exact ⟨fun ⟨⟨_, hd⟩, hlines⟩ => ⟨hlines, hd⟩, fun ⟨hlines, hd⟩ => ⟨⟨BitVec.and_zero.symm, hd⟩, hlines⟩⟩

theorem fieldOfGlyph_glyphOfField (g : BitVec 64) : fieldOfGlyph (glyphOfField g) = g := by
  simp only [fieldOfGlyph, glyphOfField]
  iterate 6 rw [BitVec.extractLsb'_append_extractLsb'_eq_extractLsb' (by rfl)]
  exact BitVec.extractLsb'_append_extractLsb'

theorem fieldOfGlyph_inj {x y : Glyph} : fieldOfGlyph x = fieldOfGlyph y ↔ x = y := by
  cases x; cases y
  simp only [fieldOfGlyph, Glyph.mk.injEq]
  iterate 7 rw [append_eq_append_iff]
  tauto

/-- The whole of `g` (format C). -/
theorem fieldOfGlyph_eq_iff (glyph : Glyph) (g : BitVec 64) : fieldOfGlyph glyph = g ↔ glyph = glyphOfField g := by
  rw [← fieldOfGlyph_inj, fieldOfGlyph_glyphOfField]

/-! ### When a word is an operation's

Decoder and encoder are each compared with the same reading of the word's fields. -/

/-- The fields of the word hold the operation's operands (R71). -/
def Instr.readFrom (w : CommandWord) : Instr → Prop
  | .begin columns lines d => columns = fieldA w ∧ lines = fieldB w ∧ d = fieldD w
  | .setCursor col row => col = fieldA w ∧ row = fieldB w
  | .createChar slot glyph => slot = fieldA w ∧ glyph = glyphOfField (fieldG w)
  | .putc byte => byte = fieldA w
  | _ => True

theorem encode_eq_and_usedBits_iff (w : CommandWord) (i : Instr) :
    encode i = w &&& i.usedBits ↔ fieldOpcode w = i.opcode ∧ i.readFrom w := by
  rw [and_usedBits, encode, append_eq_append_iff (m := 16), append_eq_append_iff, and_assoc, eq_comm (a := i.opcode)]
  refine and_congr_right fun _ => ?_
  cases i with
  | begin columns lines d =>
    simp only [Instr.operandA, Instr.operandG, Instr.usedA, Instr.usedG, Instr.readFrom, BitVec.and_allOnes,
      zero_append_ofBool_append_eq_and_iff, fieldB, fieldD]
  | setCursor col row =>
    simp only [Instr.operandA, Instr.operandG, Instr.usedA, Instr.usedG, Instr.readFrom, BitVec.and_allOnes,
      zero_append_eq_and_iff, fieldB]
  | createChar slot glyph =>
    simp only [Instr.operandA, Instr.operandG, Instr.usedA, Instr.usedG, Instr.readFrom, BitVec.and_allOnes,
      fieldOfGlyph_eq_iff]
  | putc byte => simp [Instr.operandA, Instr.operandG, Instr.usedA, Instr.usedG, Instr.readFrom, -BitVec.reduceAllOnes]
  | _ => simp [Instr.operandA, Instr.operandG, Instr.usedA, Instr.usedG, Instr.readFrom, -BitVec.reduceAllOnes]

/-- What a decoded word says of the operation it decodes to. -/
theorem readFrom_of_decode {w : CommandWord} {i : Instr} (h : decode w = .op i) :
    i.wellFormed = true ∧ fieldOpcode w = i.opcode ∧ i.readFrom w := by
  unfold decode at h
  split at h
  case h_1 hop =>
    split at h
    next => cases h
    next hlegal =>
      cases h
      refine ⟨?_, BitVec.eq_of_toNat_eq hop, rfl, rfl, rfl⟩
      simpa [Machine.illegalBegin_eq, Instr.wellFormed] using hlegal
  case h_19 => cases h
  all_goals
    next hop =>
    cases h
    exact ⟨rfl, BitVec.eq_of_toNat_eq hop, by simp [Instr.readFrom]⟩

theorem decode_of_readFrom {w : CommandWord} {i : Instr} (hwf : i.wellFormed = true)
    (hop : fieldOpcode w = i.opcode) (hread : i.readFrom w) : decode w = .op i := by
  cases i with
  | begin columns lines d =>
    obtain ⟨rfl, rfl, rfl⟩ := hread
    have hlegal : ¬ illegalBegin (fieldA w) (fieldB w) = true := by
      rw [Machine.illegalBegin_eq, Bool.not_eq_true', Bool.not_eq_false]
      exact hwf
    rw [decode_begin_word hop, if_neg hlegal]
  | setCursor col row =>
    obtain ⟨rfl, rfl⟩ := hread
    simp [decode, hop, Instr.opcode]
  | createChar slot glyph =>
    obtain ⟨rfl, rfl⟩ := hread
    exact decode_createChar_word hop
  | putc byte =>
    obtain rfl := hread
    simp [decode, hop, Instr.opcode]
  | _ => simp [decode, hop, Instr.opcode]

/-- The decoder by the encoder: a word decodes to an operation exactly when it is the operation's word in the bits its
format uses. -/
theorem decode_eq_op_iff_encode_eq (w : CommandWord) (i : Instr) :
    decode w = .op i ↔ i.wellFormed = true ∧ encode i = w &&& i.usedBits := by
  rw [encode_eq_and_usedBits_iff]
  exact ⟨readFrom_of_decode, fun ⟨hwf, hop, hread⟩ => decode_of_readFrom hwf hop hread⟩

theorem Instr.operandA_and_usedA (i : Instr) : i.operandA &&& i.usedA = i.operandA := by
  cases i with
  | begin columns lines d => exact BitVec.and_allOnes
  | setCursor col row => exact BitVec.and_allOnes
  | createChar slot glyph => exact BitVec.and_allOnes
  | putc byte => exact BitVec.and_allOnes
  | _ => exact BitVec.zero_and

theorem Instr.operandG_and_usedG (i : Instr) : i.operandG &&& i.usedG = i.operandG := by
  cases i with
  | begin columns lines d =>
    rw [operandG, usedG, BitVec.and_append, BitVec.and_append, BitVec.and_allOnes, BitVec.and_allOnes]
    rfl
  | setCursor col row =>
    rw [operandG, usedG, BitVec.and_append, BitVec.and_allOnes]
    rfl
  | createChar slot glyph => exact BitVec.and_allOnes
  | _ => exact BitVec.zero_and

/-- An operation is written with the bits its format ignores at 0 (R71). -/
theorem encode_and_usedBits (i : Instr) : encode i &&& i.usedBits = encode i := by
  obtain ⟨hopcode, hA, hG⟩ := Laws.EncodedFields.holds i
  rw [and_usedBits, hopcode, hA, hG, i.operandA_and_usedA, i.operandG_and_usedG, encode]

/-- Settles O2: an operation's word has no other bits than those its format uses. -/
theorem decodeOfEncode : Obligations.DecodeOfEncode :=
  fun i hwf => (decode_eq_op_iff_encode_eq _ i).mpr ⟨hwf, (encode_and_usedBits i).symm⟩

/-- Settles O3: the one direction of the decoder's description by the encoder. -/
theorem decodedWordsAreTheirEncoding : Obligations.DecodedWordsAreTheirEncoding :=
  fun w i => (decode_eq_op_iff_encode_eq w i).mp

/-- Settles O4: the decoder's description by the encoder looks at the used bits alone. -/
theorem ignoredBitsHaveNoEffect : Obligations.IgnoredBitsHaveNoEffect := by
  intro w w' i h hused
  rw [decode_eq_op_iff_encode_eq] at h ⊢
  rwa [hused]

/-- Settles O5: each word evaluated by the decoder. -/
theorem sampleWordsDecode : Obligations.SampleWordsDecode := by
  unfold Obligations.SampleWordsDecode
  decide

end Sys2Proof
end

section
/-! PROOFS for 10_state.md sections 5 and 7: what acceptance leaves alone, what one step does, and running an operation to
its end (R31, R35 to R38). Whatever the operation, acceptance performs the register writes due at once and puts the rest
of the list into `pending`. -/

namespace Sys2Proof.Machine

/-! ### The two parts of an operation's list -/

/-- The micro-operations performed at acceptance: `BEGIN`'s first register writes (41_begin.md R109). -/
def atOnceOps (c : Config) : Instr → List MicroOp
  | .begin columns lines dots5x10 => beginRegisterWrites c columns lines dots5x10
  | _ => []

/-- The micro-operations that acceptance puts into `pending` (R35). -/
def deferredOps (c : Config) (r : Regs) : Instr → List MicroOp
  | .begin _ lines dots5x10 => beginWaitAndTraffic c (functionFlagsFor c lines dots5x10)
  | i => opsOf c r i

theorem atOnceOps_append_deferredOps (c : Config) (r : Regs) (i : Instr) :
    atOnceOps c i ++ deferredOps c r i = opsOf c r i := by
  cases i <;> rfl

theorem writeCsr_of_mem_atOnceOps {c : Config} {i : Instr} {op : MicroOp} (h : op ∈ atOnceOps c i) :
    ∃ reg v, op = .writeCsr reg v := by
  cases i with
  | begin columns lines dots5x10 =>
    simp only [atOnceOps, beginRegisterWrites, List.mem_cons, List.not_mem_nil, or_false] at h
    obtain rfl | rfl | rfl | rfl | rfl | rfl := h <;> exact ⟨_, _, rfl⟩
  | _ => cases h

/-- Register writes are no pin events (00_scope.md R13). -/
@[simp] theorem traceOf_atOnceOps (c : Config) (i : Instr) : traceOf (atOnceOps c i) = [] := by
  refine List.flatMap_eq_nil_iff.mpr fun op hop => ?_
  obtain ⟨reg, v, rfl⟩ := writeCsr_of_mem_atOnceOps hop
  rfl

@[simp] theorem foldl_onPins_atOnceOps (c : Config) (i : Instr) (p : Pins) :
    (atOnceOps c i).foldl (fun p op => op.onPins p) p = p := by
  cases i <;> rfl

/-! ### What `exec` answers -/

/-- The state in which a ready block has accepted an operation. -/
def State.accepted (s : State) (i : Instr) : State :=
  { s.performAll (atOnceOps s.cfg i) with pending := deferredOps s.cfg s.regs i }

theorem exec_wellFormed_ready {s : State} {i : Instr} (hwf : i.wellFormed = true) (hready : s.cmdReady = true) :
    exec i s = .next (s.accepted i) := by
  cases i
  case begin columns lines dots5x10 =>
    rw [execBegin_of_ranges columns lines dots5x10 s hwf, State.acceptAfter_ready s _ _ hready]
    rfl
  all_goals exact exec_of_ready (by simp [Instr.opcode]) hready

/-- Only a `BEGIN` can be ill-formed (41_begin.md R108). -/
theorem exec_illFormed_ready {s : State} {i : Instr} (hill : i.wellFormed = false) (hready : s.cmdReady = true) :
    exec i s = .next (s.raiseIllegal .illegalOperand 0x01) := by
  cases i
  case begin columns lines dots5x10 =>
    have hoperands : illegalBegin columns lines = true := by
      rw [illegalBegin_eq, Bool.not_eq_true']
      exact hill
    simp [exec, execBegin, hoperands, hready]
  all_goals cases hill

/-- What acceptance leaves as it was: the configuration, the latches, the inputs and the record of the run; and a fault
recorded before. -/
structure SameButOperation (s t : State) : Prop where
  cfg : t.cfg = s.cfg
  pins : t.pins = s.pins
  rst : t.rst = s.rst
  words : t.words = s.words
  resetScript : t.resetScript = s.resetScript
  trace : t.trace = s.trace
  endedTraces : t.endedTraces = s.endedTraces
  sticky : s.fault.fault = true → t.fault = s.fault

theorem sameButOperation_raiseIllegal (s : State) (cause : IllegalCause) (opcode : Byte) :
    SameButOperation s (s.raiseIllegal cause opcode) := by
  constructor <;> simp +contextual [State.raiseIllegal_eq]

theorem sameButOperation_accepted (s : State) (i : Instr) : SameButOperation s (s.accepted i) := by
  constructor <;> simp [State.accepted]

theorem exec_answers (i : Instr) (s : State) : ∃ t, exec i s = .next t ∧ SameButOperation s t := by
  cases hready : s.cmdReady with
  | false => exact ⟨s, exec_not_ready i s hready, rfl, rfl, rfl, rfl, rfl, rfl, rfl, fun _ => rfl⟩
  | true =>
    cases hwf : i.wellFormed with
    | false => exact ⟨_, exec_illFormed_ready hwf hready, sameButOperation_raiseIllegal s _ _⟩
    | true => exact ⟨_, exec_wellFormed_ready hwf hready, sameButOperation_accepted s i⟩

theorem acceptWord_op {w : CommandWord} {i : Instr} (h : decode w = .op i) (s : State) :
    acceptWord w s = exec i s := by
  rw [acceptWord, h]

theorem acceptWord_answers (w : CommandWord) (s : State) : ∃ t, acceptWord w s = .next t ∧ SameButOperation s t := by
  cases hdecode : decode w with
  | op i => rw [acceptWord_op hdecode]; exact exec_answers i s
  | illegal cause => exact ⟨_, acceptWord_illegal hdecode s, sameButOperation_raiseIllegal s _ _⟩

/-! ### The host's move -/

theorem State.sampleReset_none {s : State} (h : s.resetScript = []) : s.sampleReset = s := by
  simp [sampleReset, h]

theorem State.sampleReset_quiet {s : State} {rest : List ResetInput} (h : s.resetScript = .quiet :: rest) :
    s.sampleReset = { s with resetScript := rest } := by
  simp [sampleReset, h]

theorem State.sampleReset_release {s : State} {rest : List ResetInput} (h : s.resetScript = .release :: rest) :
    s.sampleReset = { s with resetScript := rest, rst := false } := by
  simp [sampleReset, h]

/-- Asserting `rst` again does nothing (notes/assumptions/18.md). -/
theorem State.sampleReset_assert_again {s : State} {d : Option Nat} {rest : List ResetInput}
    (h : s.resetScript = .assert d :: rest) (hrst : s.rst = true) : s.sampleReset = { s with resetScript := rest } := by
  simp [sampleReset, assertReset, h, hrst]

theorem State.sampleReset_assert {s : State} {d : Option Nat} {rest : List ResetInput}
    (h : s.resetScript = .assert d :: rest) (hrst : s.rst = false) :
    s.sampleReset =
      { s.holdReset with
        rst := true, resetScript := rest, endedTraces := s.endedTraces ++ [s.trace ++ s.cutEvents d] } := by
  simp [sampleReset, assertReset, h, hrst]
  rfl

/-- Whatever the host's move, configuration and words stay, and so does all the rest unless the block is then in reset. -/
theorem State.sampleReset_frame (s : State) :
    s.sampleReset.cfg = s.cfg ∧ s.sampleReset.words = s.words ∧
    (s.sampleReset.rst = true ∨ s.sampleReset.fault = s.fault ∧ s.sampleReset.trace = s.trace) := by
  cases hscript : s.resetScript with
  | nil => rw [State.sampleReset_none hscript]; exact ⟨rfl, rfl, .inr ⟨rfl, rfl⟩⟩
  | cons m rest =>
    cases m with
    | quiet => rw [State.sampleReset_quiet hscript]; exact ⟨rfl, rfl, .inr ⟨rfl, rfl⟩⟩
    | release => rw [State.sampleReset_release hscript]; exact ⟨rfl, rfl, .inr ⟨rfl, rfl⟩⟩
    | assert d =>
      cases hrst : s.rst with
      | true => rw [State.sampleReset_assert_again hscript hrst]; exact ⟨rfl, rfl, .inl hrst⟩
      | false => rw [State.sampleReset_assert hscript hrst]; exact ⟨rfl, rfl, .inl rfl⟩

@[simp] theorem State.sampleReset_cfg (s : State) : s.sampleReset.cfg = s.cfg := s.sampleReset_frame.1

@[simp] theorem State.sampleReset_words (s : State) : s.sampleReset.words = s.words := s.sampleReset_frame.2.1

/-! ### The block's step, case by case -/

theorem blockStep_inReset {s : State} (hrst : s.rst = true) : blockStep s = .next s.holdReset := by
  simp [blockStep, hrst]

theorem blockStep_pending {s : State} {op : MicroOp} {rest : List MicroOp} (hrst : s.rst = false)
    (hpending : s.pending = op :: rest) :
    blockStep s = .next (State.perform { s with pending := rest } op) := by
  simp [blockStep, hrst, hpending]

theorem blockStep_idle {s : State} (hrst : s.rst = false) (hpending : s.pending = []) (hwords : s.words = []) :
    blockStep s = .next s := by
  simp [blockStep, hrst, hpending, hwords]

/-- What the block's step leaves as it was: the configuration; the words, but for the one it takes; out of reset, a fault
recorded before. -/
theorem blockStep_answers (s : State) :
    ∃ t, blockStep s = .next t ∧ t.cfg = s.cfg ∧ t.rst = s.rst ∧
      (t.words = s.words ∨ s.rst = false ∧ s.pending = [] ∧ ∃ w, s.words = w :: t.words) ∧
      (s.rst = true ∨ (s.fault.fault = true → t.fault = s.fault)) := by
  obtain ⟨hrst, hstep⟩ | ⟨-, op, rest, -, hstep⟩ | ⟨-, -, -, hstep⟩ | ⟨hrst, hpending, w, ws, hwords, hstep⟩ :=
    blockStep_cases s
  · exact ⟨_, hstep, rfl, rfl, .inl rfl, .inl hrst⟩
  · exact ⟨_, hstep, rfl, rfl, .inl rfl, .inr fun _ => rfl⟩
  · exact ⟨_, hstep, rfl, rfl, .inl rfl, .inr fun _ => rfl⟩
  · obtain ⟨t, ht, hsame⟩ := acceptWord_answers w { s with words := ws }
    exact ⟨t, hstep.trans ht, hsame.cfg, hsame.rst, .inr ⟨hrst, hpending, w, by rw [hsame.words, hwords]⟩,
      .inr hsame.sticky⟩

theorem blockStep_frame {s t : State} (h : blockStep s = .next t) :
    t.cfg = s.cfg ∧ t.rst = s.rst ∧
      (t.words = s.words ∨ s.rst = false ∧ s.pending = [] ∧ ∃ w, s.words = w :: t.words) ∧
      (s.rst = true ∨ (s.fault.fault = true → t.fault = s.fault)) := by
  obtain ⟨t', ht', hframe⟩ := blockStep_answers s
  obtain rfl := Host.Outcome.next.inj (ht'.symm.trans h)
  exact hframe

/-! ### Safety of every step -/

/-- Settles O9: each of the four things a step can do answers a next state. -/
theorem noStepStops : Obligations.NoStepStops := fun s =>
  let ⟨t, ht, _⟩ := blockStep_answers s.sampleReset
  ⟨t, ht⟩

/-- Settles O12: neither the host's move nor the block's step writes the configuration. -/
theorem configurationNeverChanges : Obligations.ConfigurationNeverChanges := by
  intro s t hstep
  obtain ⟨hcfg, -⟩ := blockStep_frame hstep
  rw [hcfg, s.sampleReset_cfg]

/-- Settles O10: only the case in which an idle block takes a word shortens the list, by its first. -/
theorem wordsTakenInOrderWhenIdle : Obligations.WordsTakenInOrderWhenIdle := by
  intro s t hstep hne
  obtain ⟨-, -, hwords, -⟩ := blockStep_frame hstep
  rw [s.sampleReset_words] at hwords
  exact hwords.resolve_left hne

/-- Settles O31: out of reset neither the host's move nor the block's step touches a fault that is recorded. -/
theorem faultRecordIsSticky : Obligations.FaultRecordIsSticky := by
  intro s t hstep hfault
  obtain ⟨-, hrst, -, hsticky⟩ := blockStep_frame hstep
  obtain ⟨-, -, hreset | ⟨hsame, -⟩⟩ := s.sampleReset_frame
  · exact .inr (hrst.trans hreset)
  · rw [hsame] at hsticky
    exact hsticky.symm.imp (· hfault) hrst.trans

/-! ### What a step does -/

/-- Settles O11: acceptance looks at `cmd_ready` first. -/
theorem notReadyChangesNothing : Obligations.NotReadyChangesNothing :=
  fun s i hready => exec_not_ready i s hready

/-- Settles O6: the idle block takes the word, and the decoder gives only well-formed operations. -/
theorem stepRunsDecodedInstruction : Obligations.StepRunsDecodedInstruction := by
  rintro s u w ws i rfl hrst hpending hwords hdecode
  obtain ⟨hwf, -⟩ := readFrom_of_decode hdecode
  exact ⟨hwf, by rw [step, blockStep_of_offered hrst hpending hwords, acceptWord_op hdecode]⟩

theorem decodeTableWord_eq_some {nbits w : Nat} {i : Instr} (h : decodeTableWord nbits w = some i) :
    decode (wordOfTableBits nbits w) = .op i := by
  unfold decodeTableWord at h
  split at h
  next hdecode => rw [hdecode, Option.some.inj h]
  next => cases h

/-- Settles O7: the placed word stands first on the port of an idle block whose host leaves `rst` alone. -/
theorem placedWordRunsNext : Obligations.PlacedWordRunsNext := by
  intro s nbits w i hdecode
  rw [step, State.sampleReset_quiet (rest := s.resetScript) rfl, blockStep_of_offered rfl rfl rfl,
    acceptWord_op (decodeTableWord_eq_some hdecode)]
  rfl

/-- Settles O8: out of reset the sequencer performs the head of `pending`. -/
theorem stepPerformsFirstMicroOp : Obligations.StepPerformsFirstMicroOp := by
  rintro s u op rest rfl hrst hpending
  refine ⟨_, blockStep_pending hrst hpending, rfl, s.sampleReset_words, rfl, rfl, rfl, ?_, rfl, rfl, rfl, rfl, hrst⟩
  exact Nat.le_add_right _ _

/-- Settles O52: with nothing to do the block's step is the identity. -/
theorem idleStepChangesNothing : Obligations.IdleStepChangesNothing := by
  rintro s u rfl hrst hpending hwords
  refine ⟨blockStep_idle hrst hpending hwords, ?runOver, (State.cmdReady_iff _).mpr ⟨hrst, hpending⟩,
    fun hscript => State.sampleReset_none hscript⟩
  case runOver => rw [State.runOver, State.cmdValid, State.busy, hwords, hpending]; rfl

end Sys2Proof.Machine
end

section
/-! PROOFS for 10_state.md sections 4 and 7: the block never reads a latch, the trace or the time (R35, R36). Each thing that
acts on a state, from one micro-operation to one step, takes states that agree in the rest to states that agree in the
rest and adds the same events to both traces. -/

namespace Sys2Proof.Machine

/-- Accepting a word is no pin event. -/
theorem acceptWord_trace {w : CommandWord} {s t : State} (h : acceptWord w s = .next t) : t.trace = s.trace := by
  obtain ⟨t', hanswer, hsame⟩ := acceptWord_answers w s
  obtain rfl := Host.Outcome.next.inj (hanswer.symm.trans h)
  exact hsame.trace

/-- Only the beginning of a reset ends a trace. -/
theorem State.sampleReset_trace {s : State} (hrst : s.sampleReset.rst = false) : s.sampleReset.trace = s.trace := by
  obtain ⟨-, -, hreset | ⟨-, htrace⟩⟩ := s.sampleReset_frame
  · cases hrst.symm.trans hreset
  · exact htrace

namespace SameLogic

variable {s t : State}

theorem cmdReady (h : SameLogic s t) : s.cmdReady = t.cmdReady := by
  rw [State.cmdReady, State.busy, State.cmdReady, State.busy, h.rst, h.pending]

/-- The same register state, `pending` and inputs written into both. -/
theorem setPending (h : SameLogic s t) (ops : List MicroOp) :
    SameLogic { s with pending := ops } { t with pending := ops } := { h with pending := rfl }

theorem setWords (h : SameLogic s t) (ws : List CommandWord) :
    SameLogic { s with words := ws } { t with words := ws } := { h with words := rfl }

theorem setScript (h : SameLogic s t) (script : List ResetInput) :
    SameLogic { s with resetScript := script } { t with resetScript := script } := { h with resetScript := rfl }

theorem perform (h : SameLogic s t) (op : MicroOp) : SameLogic (s.perform op) (t.perform op) :=
  { h with regs := congrArg op.onRegs h.regs }

theorem performAll (h : SameLogic s t) (ops : List MicroOp) : SameLogic (s.performAll ops) (t.performAll ops) := by
  induction ops generalizing s t with
  | nil => exact h
  | cons op ops ih => exact ih (h.perform op)

theorem holdReset (h : SameLogic s t) : SameLogic s.holdReset t.holdReset :=
  { h with regs := congrArg Regs.afterReset h.cfg, fault := rfl, pending := rfl }

theorem raiseIllegal (h : SameLogic s t) (cause : IllegalCause) (opcode : Byte) :
    SameLogic (s.raiseIllegal cause opcode) (t.raiseIllegal cause opcode) := by
  rw [State.raiseIllegal_eq, State.raiseIllegal_eq]
  exact { h with fault := by rw [h.fault] }

theorem accepted (h : SameLogic s t) (i : Instr) : SameLogic (s.accepted i) (t.accepted i) := by
  unfold State.accepted
  rw [h.cfg, h.regs]
  exact (h.performAll _).setPending _

/-- An operation offered to both: the same branch of `exec` is taken. -/
theorem exec (h : SameLogic s t) (i : Instr) :
    ∃ s' t', exec i s = .next s' ∧ exec i t = .next t' ∧ SameLogic s' t' := by
  have hsame := h.cmdReady
  cases hready : t.cmdReady with
  | false => exact ⟨s, t, exec_not_ready i s (hsame.trans hready), exec_not_ready i t hready, h⟩
  | true =>
    cases hwf : i.wellFormed with
    | false =>
      exact ⟨_, _, exec_illFormed_ready hwf (hsame.trans hready), exec_illFormed_ready hwf hready, h.raiseIllegal _ _⟩
    | true =>
      exact ⟨_, _, exec_wellFormed_ready hwf (hsame.trans hready), exec_wellFormed_ready hwf hready, h.accepted i⟩

theorem acceptWord (h : SameLogic s t) (w : CommandWord) :
    ∃ s' t', acceptWord w s = .next s' ∧ acceptWord w t = .next t' ∧ SameLogic s' t' := by
  cases hdecode : decode w with
  | op i => rw [acceptWord_op hdecode, acceptWord_op hdecode]; exact h.exec i
  | illegal cause =>
    exact ⟨_, _, acceptWord_illegal hdecode s, acceptWord_illegal hdecode t, h.raiseIllegal cause _⟩

theorem sampleReset (h : SameLogic s t) : SameLogic s.sampleReset t.sampleReset := by
  cases hscript : t.resetScript with
  | nil =>
    rw [State.sampleReset_none (h.resetScript.trans hscript), State.sampleReset_none hscript]
    exact h
  | cons m rest =>
    have hs := h.resetScript.trans hscript
    cases m with
    | quiet =>
      rw [State.sampleReset_quiet hs, State.sampleReset_quiet hscript]
      exact h.setScript rest
    | release =>
      rw [State.sampleReset_release hs, State.sampleReset_release hscript]
      exact { h.setScript rest with rst := rfl }
    | assert d =>
      cases hrst : t.rst with
      | true =>
        rw [State.sampleReset_assert_again hs (h.rst.trans hrst), State.sampleReset_assert_again hscript hrst]
        exact h.setScript rest
      | false =>
        rw [State.sampleReset_assert hs (h.rst.trans hrst), State.sampleReset_assert hscript hrst]
        exact { h.holdReset.setScript rest with rst := rfl }

/-- The block's step: in reset both traces are emptied, else both grow by the same events. -/
theorem blockStep (h : SameLogic s t) :
    ∃ s' t', blockStep s = .next s' ∧ blockStep t = .next t' ∧ SameLogic s' t' ∧
      (s'.trace = [] ∧ t'.trace = [] ∨
        s.rst = false ∧ ∃ events, s'.trace = s.trace ++ events ∧ t'.trace = t.trace ++ events) := by
  obtain ⟨hrst, ht⟩ | ⟨hrst, op, rest, hpending, ht⟩ | ⟨hrst, hpending, hwords, ht⟩ |
      ⟨hrst, hpending, w, ws, hwords, -⟩ := blockStep_cases t
  all_goals have hs := h.rst.trans hrst
  · exact ⟨_, _, blockStep_inReset hs, ht, h.holdReset, .inl ⟨rfl, rfl⟩⟩
  · exact ⟨_, _, blockStep_pending hs (h.pending.trans hpending), ht, (h.setPending rest).perform op,
      .inr ⟨hs, op.events, rfl, rfl⟩⟩
  · exact ⟨_, _, blockStep_idle hs (h.pending.trans hpending) (h.words.trans hwords), ht, h,
      .inr ⟨hs, [], (List.append_nil _).symm, (List.append_nil _).symm⟩⟩
  · rw [blockStep_of_offered hs (h.pending.trans hpending) (h.words.trans hwords),
      blockStep_of_offered hrst hpending hwords]
    obtain ⟨s', t', hs', ht', hsame⟩ := (h.setWords ws).acceptWord w
    refine ⟨s', t', hs', ht', hsame, .inr ⟨hs, [], ?_, ?_⟩⟩
    · rw [acceptWord_trace hs', List.append_nil]
    · rw [acceptWord_trace ht', List.append_nil]

end SameLogic

/-- Settles O44: the host's move keeps the traces unless it begins a reset, which the block's step then holds. -/
theorem pinsTraceAndTimeAreNeverRead : Obligations.PinsTraceAndTimeAreNeverRead := by
  intro s t s' t' h hs ht
  obtain ⟨s'', t'', hs'', ht'', hsame, htrace⟩ := h.sampleReset.blockStep
  obtain rfl := Host.Outcome.next.inj (hs''.symm.trans hs)
  obtain rfl := Host.Outcome.next.inj (ht''.symm.trans ht)
  refine ⟨hsame, htrace.symm.imp_left fun ⟨hrst, events, hs', ht'⟩ => ⟨events, ?_⟩⟩
  rw [State.sampleReset_trace hrst] at hs'
  rw [State.sampleReset_trace (h.sampleReset.rst.symm.trans hrst)] at ht'
  exact ⟨hs', ht'⟩

end Sys2Proof.Machine
end

section
/-! PROOFS for 40_pin_primitives.md section 2: what a `Send` puts on the pins and in the trace, and what the reader of a trace
finds in it (R92, R93; notes/assumptions/21.md). -/

namespace Sys2Proof.Machine

/-! ### The two nibbles of a byte (20_memory.md R55) -/

theorem highNibble_shiftLeft_or_lowBits (v : Byte) : (highNibble v <<< 4) ||| lowBits 4 v = v := by
  revert v
  decide

/-! ### The traces of the primitives -/

theorem traceOf_rwLow (c : Config) : traceOf (rwLow c) = if c.hasRw then [.setPin .rw .low] else [] := by
  unfold rwLow
  split <;> rfl

theorem traceOf_transfers (c : Config) (v : Byte) :
    traceOf (transfers c v) =
      match c.width with
      | .eightBit => enablePulseTrace c.timing 8 v
      | .fourBit => enablePulseTrace c.timing 4 (highNibble v) ++ enablePulseTrace c.timing 4 (lowBits 4 v) := by
  unfold transfers
  cases c.width with
  | eightBit => exact (traceOf_writeBits c v 8).trans (by rw [lowBits_eight])
  | fourBit => rw [traceOf_append, traceOf_writeBits, traceOf_writeBits, lowBits_highNibble]

theorem traceOf_send (c : Config) (v : Byte) (mode : SendMode) :
    traceOf (send c v mode) = [.setPin .rs mode.level] ++ traceOf (rwLow c) ++ traceOf (transfers c v) := by
  rw [send, traceOf_append, traceOf_append]
  rfl

/-! ### Reading sends from a trace -/

/-- Where the reader stands after a trace. -/
def placeAfter (place : SendScan) (t : List TraceEvent) : SendScan := t.foldl (fun p e => (scanEvent p e).1) place

theorem placeAfter_append (place : SendScan) (xs ys : List TraceEvent) :
    placeAfter place (xs ++ ys) = placeAfter (placeAfter place xs) ys := List.foldl_append

theorem sendsFrom_append (place : SendScan) (xs ys : List TraceEvent) :
    sendsFrom place (xs ++ ys) = sendsFrom place xs ++ sendsFrom (placeAfter place xs) ys := by
  induction xs generalizing place with
  | nil => rfl
  | cons x xs ih => simp [sendsFrom, placeAfter, ih]

/-- From `place` on, the reader finds `sends` in what `ops` puts in the trace, and stands outside a send after it. -/
def ReadsAs (place : SendScan) (ops : List MicroOp) (sends : List (SendMode × Byte)) : Prop :=
  sendsFrom place (traceOf ops) = sends ∧ placeAfter place (traceOf ops) = .outside

namespace ReadsAs

variable {place : SendScan}

theorem append {xs ys : List MicroOp} {as bs : List (SendMode × Byte)} (hx : ReadsAs place xs as)
    (hy : ReadsAs .outside ys bs) : ReadsAs place (xs ++ ys) (as ++ bs) := by
  obtain ⟨hxSends, hxPlace⟩ := hx
  obtain ⟨hySends, hyPlace⟩ := hy
  rw [ReadsAs, traceOf_append, sendsFrom_append, hxSends, hxPlace, hySends]
  exact ⟨rfl, by rw [placeAfter_append, hxPlace, hyPlace]⟩

/-- A register write is in no trace. -/
theorem cons_writeCsr {ops : List MicroOp} {sends : List (SendMode × Byte)} (reg : Csr) (v : Byte)
    (h : ReadsAs place ops sends) : ReadsAs place (.writeCsr reg v :: ops) sends := h

theorem wait (n : Nat) : ReadsAs .outside [.wait n] [] := ⟨rfl, rfl⟩

theorem writeCsr (reg : Csr) (v : Byte) : ReadsAs .outside [.writeCsr reg v] [] := ⟨rfl, rfl⟩

/-- A transfer that no write of `RS` opens is no send. -/
theorem writeBits (c : Config) (v : Byte) (n : Nat) : ReadsAs .outside (writeBits c v n) [] := ⟨rfl, rfl⟩

/-- A send, wherever the reader stands before it. -/
theorem send (c : Config) (v : Byte) (mode : SendMode) : ReadsAs place (send c v mode) [(mode, v)] := by
  have hmode : SendMode.ofLevel mode.level = mode := by cases mode <;> rfl
  have hopen : sendsFrom place (.setPin .rs mode.level :: traceOf (rwLow c)) = [] ∧
      placeAfter place (.setPin .rs mode.level :: traceOf (rwLow c)) = .selected mode := by
    rw [traceOf_rwLow]
    split <;> exact ⟨rfl, congrArg SendScan.selected hmode⟩
  obtain ⟨hopenSends, hopenPlace⟩ := hopen
  have htransfers : sendsFrom (.selected mode) (traceOf (transfers c v)) = [(mode, v)] ∧
      placeAfter (.selected mode) (traceOf (transfers c v)) = .outside := by
    rw [traceOf_transfers]
    cases c.width with
    | eightBit => exact ⟨rfl, rfl⟩
    | fourBit => exact ⟨congrArg (fun b => [(mode, b)]) (highNibble_shiftLeft_or_lowBits v), rfl⟩
  obtain ⟨htransferSends, htransferPlace⟩ := htransfers
  rw [ReadsAs, traceOf_send, sendsFrom_append, List.singleton_append, hopenSends, hopenPlace, htransferSends]
  exact ⟨rfl, by rw [placeAfter_append, hopenPlace, htransferPlace]⟩

/-- One send per byte. -/
theorem flatMap_send (c : Config) (mode : SendMode) (vs : List Byte) :
    ReadsAs .outside (vs.flatMap fun v => Machine.send c v mode) (vs.map fun v => (mode, v)) := by
  induction vs with
  | nil => exact ⟨rfl, rfl⟩
  | cons v vs ih => exact (send c v mode).append ih

end ReadsAs

/-! ### The latches after a `Send` -/

theorem foldl_onPins_rwLow (c : Config) (p : Pins) :
    (rwLow c).foldl (fun p op => op.onPins p) p = if c.hasRw then p.setLevel .rw .low else p := by
  unfold rwLow
  split <;> rfl

/-- Whatever the width, the last drive of a byte's transfers puts its low bits on the data pins. -/
theorem foldl_onPins_transfers (c : Config) (v : Byte) (p : Pins) :
    ∃ q : Pins, (transfers c v).foldl (fun p op => op.onPins p) p = (q.driveData c.width.nData v).setLevel .en .low ∧
      q.rs = p.rs ∧ q.rw = p.rw ∧ q.db.length = p.db.length := by
  unfold transfers
  cases c.width with
  | eightBit => exact ⟨p, foldl_onPins_writeBits c v 8 p, rfl, rfl, rfl⟩
  | fourBit =>
    refine ⟨(p.driveData 4 (highNibble v)).setLevel .en .low, ?_, rfl, rfl, p.driveData_length _ _⟩
    exact List.foldl_append.trans (by rw [foldl_onPins_writeBits, foldl_onPins_writeBits]; rfl)

/-- The latches of a block as 10_state.md R30 has them, when a byte has been sent. -/
theorem pins_after_send {c : Config} {p q : Pins} {v : Byte} {mode : SendMode} (hp : p.legal c = true)
    (hq : q = (send c v mode).foldl (fun p op => op.onPins p) p) :
    q.rs = .holds mode.level ∧ q.rw = (if c.hasRw then some (.holds .low) else none) ∧ q.en = .holds .low ∧
      ∀ i, i < c.width.nData → q.db[i]? = some (.holds (Level.ofBool (v.getLsbD i))) := by
  obtain ⟨⟨hrw, -⟩, hlength⟩ : (p.rw.isSome = c.hasRw ∧ _) ∧ p.db.length = c.width.nData := by
    simpa [Pins.legal] using hp
  have hopen : ([MicroOp.setPin .rs mode.level] ++ rwLow c).foldl (fun p op => op.onPins p) p =
      { p with rs := .holds mode.level, rw := if c.hasRw then some (.holds .low) else none } := by
    rw [List.foldl_append, foldl_onPins_rwLow]
    obtain ⟨rs, rw, en, db⟩ := p
    cases rw <;> simp_all [MicroOp.onPins, Pins.setLevel, ← hrw]
  obtain ⟨p', hp', hrs, hrw', hdb⟩ := foldl_onPins_transfers c v
    { p with rs := .holds mode.level, rw := if c.hasRw then some (.holds .low) else none }
  rw [send, List.foldl_append, hopen, hp'] at hq
  subst hq
  refine ⟨hrs, hrw', rfl, fun i hi => ?_⟩
  exact p'.driveData_db_getElem?_of_lt v hi (by rw [hdb, hlength]; exact hi)

/-! ### `Send` -/

/-- The transfers of one byte, as a list (R92). -/
def transfersOf (c : Config) (v : Byte) : List (Nat × Byte) :=
  match c.width with
  | .eightBit => [(8, v)]
  | .fourBit => [(4, v >>> 4), (4, v &&& 0x0F)]

theorem transferList_append (xs ys : List TraceEvent) :
    transferList (xs ++ ys) = transferList xs ++ transferList ys := by
  induction xs with
  | nil => rfl
  | cons x xs ih => cases x <;> simp [transferList, ih]

theorem transferList_send (c : Config) (v : Byte) (mode : SendMode) :
    transferList (traceOf (send c v mode)) = transfersOf c v := by
  have hrw : transferList (traceOf (rwLow c)) = [] := by rw [traceOf_rwLow]; split <;> rfl
  rw [traceOf_send, transferList_append, transferList_append, hrw, traceOf_transfers, transfersOf]
  cases c.width with
  | eightBit => rfl
  | fourBit => rw [lowBits_four]; rfl

/-- Settles O15: the list by definition, the trace and the reading of it by the rules above, the latches by the last drive. -/
theorem sendMovesOneByte : Obligations.SendMovesOneByte := by
  rintro s t v mode hpins rfl
  obtain ⟨hrs, hrw, hen, hdb⟩ := pins_after_send hpins (s.performAll_pins (send s.cfg v mode))
  refine ⟨?list, ?trace, (ReadsAs.send s.cfg v mode).1, ?transfers, length_send s.cfg v mode, hrs.trans (by cases mode <;> rfl),
    hrw, hen, fun i hi => (hdb i hi).trans (by rw [Level.ofBool_eq_ite]), ?regs, State.performAll_fault s _⟩
  case list => cases mode <;> rfl
  case trace =>
    rw [State.performAll_trace, traceOf_send, traceOf_rwLow, traceOf_transfers, lowBits_four]
    simp only [List.append_assoc]
    cases mode <;> rfl
  case transfers => rw [transferList_send]; rfl
  case regs => rw [State.performAll_regs, foldl_onRegs_send]

end Sys2Proof.Machine
end

section
/-! PROOFS for 10_state.md section 7 and 70_reset_and_hazards.md: an operation accepted and run to its end (R35, R37), reset
at any moment (R170, R171, R176), and several blocks (60_exceptions.md R164). -/

namespace Sys2Proof.Machine

/-! ### The operation in progress, run to its end -/

theorem State.complete_accepted {s : State} (i : Instr) (hready : s.cmdReady = true) :
    (s.accepted i).complete = s.performAll (opsOf s.cfg s.regs i) := by
  have hpending : (s.performAll (atOnceOps s.cfg i)).pending = [] := by
    rw [State.performAll_pending]
    exact (s.cmdReady_iff.mp hready).2
  rw [← atOnceOps_append_deferredOps, State.performAll_append, State.complete, ← hpending]
  rfl

/-- Settles O42: acceptance performs register writes alone, and the completion is the whole list performed. -/
theorem operationPerformsItsList : Obligations.OperationPerformsItsList := by
  intro s i hready hwf
  have hsame := sameButOperation_accepted s i
  refine ⟨_, exec_wellFormed_ready hwf hready, s.complete_accepted i hready, ?_, hsame.trace, hsame.pins,
    State.performAll_fault s _, hsame.cfg, hsame.words, ?_⟩ <;> rw [s.complete_accepted i hready]
  · exact State.performAll_trace _ s
  · exact ⟨State.performAll_fault s _, State.performAll_words s _, State.performAll_endedTraces s _⟩

theorem core_run_succ {s t : State} (k : Nat) (h : step s = .next t) :
    Sys2Proof.core.run (k + 1) s = Sys2Proof.core.run k t := by
  have hcore : Sys2Proof.core.step s = .next t := h
  simp only [Host.Core.run, hcore]

/-- Left alone by the host, the block performs one micro-operation per step. -/
theorem core_run_pending {s : State} (hrst : s.rst = false) (hscript : s.resetScript = []) {k : Nat}
    (hk : k ≤ s.pending.length) :
    Sys2Proof.core.run k s = .next (State.performAll { s with pending := s.pending.drop k } (s.pending.take k)) := by
  induction k generalizing s with
  | zero => rfl
  | succ k ih =>
    cases hpending : s.pending with
    | nil => simp [hpending] at hk
    | cons op rest =>
      have hstep : step s = .next (State.perform { s with pending := rest } op) := by
        rw [step, State.sampleReset_none hscript, blockStep_pending hrst hpending]
      rw [core_run_succ k hstep]
      exact ih hrst hscript (by simpa [hpending] using hk)

theorem core_run_complete {s : State} (hrst : s.rst = false) (hscript : s.resetScript = []) :
    Sys2Proof.core.run s.pending.length s = .next s.complete := by
  rw [core_run_pending hrst hscript le_rfl, List.drop_length, List.take_length]
  rfl

/-- Settles O43: one step per micro-operation pending; an accepted word takes one step more. -/
theorem steppingReachesAtomicView : Obligations.SteppingReachesAtomicView := by
  refine ⟨fun s => core_run_complete, fun s u w ws i hrst hscript hpending hwords hdecode hatomic => ?_⟩
  obtain ⟨t, hexec, hsame⟩ := exec_answers i { s with words := ws }
  have hstep : step s = .next t := by
    rw [step, State.sampleReset_none hscript, blockStep_of_offered hrst hpending hwords, acceptWord_op hdecode, hexec]
  rw [execAtomic, hexec] at hatomic
  obtain rfl := Host.Outcome.next.inj hatomic
  exact ⟨t.pending.length + 1,
    (core_run_succ _ hstep).trans (core_run_complete (hsame.rst.trans hrst) (hsame.resetScript.trans hscript))⟩

/-! ### Reset -/

/-- The step in which the host asserts `rst` outside reset. -/
theorem step_assert {s : State} {cut : Option Nat} {rest : List ResetInput} (hrst : s.rst = false)
    (hscript : s.resetScript = .assert cut :: rest) :
    step s = .next
      { s.holdReset with
        rst := true, resetScript := rest, endedTraces := s.endedTraces ++ [s.trace ++ s.cutEvents cut] } := by
  rw [step, State.sampleReset_assert hscript hrst, blockStep_inReset rfl]
  rfl

/-- Settles O33: the block is in its reset state before the step and held there by it. -/
theorem resetDiscardsOperation : Obligations.ResetDiscardsOperation :=
  fun _ _ _ hrst hscript => step_assert hrst hscript

theorem cutEvents_of_wait {s : State} {d n : Nat} {ops : List MicroOp} (h : s.pending = .wait n :: ops) :
    s.cutEvents (some d) = [.cutWait n d] := by
  unfold State.cutEvents
  rw [h]

theorem cutEvents_of_no_wait {s : State} {cut : Option Nat} (h : cut = none ∨ ∀ n ops, s.pending ≠ .wait n :: ops) :
    s.cutEvents cut = [] := by
  unfold State.cutEvents
  split
  next d n ops hpending => exact absurd hpending (h.resolve_left nofun n ops)
  next => rfl

theorem State.complete_trace (s : State) : s.complete.trace = s.trace ++ traceOf s.pending := by
  rw [State.complete, State.performAll_trace]

/-- Settles O35: what the ended run recorded is the trace so far, and the completed operation only adds to it. -/
theorem cutTraceIsPrefix : Obligations.CutTraceIsPrefix := by
  intro s t cut rest hrst hscript hstep
  obtain rfl := Host.Outcome.next.inj ((step_assert hrst hscript).symm.trans hstep)
  refine ⟨s.cutEvents cut, rfl, ?_, fun h => cutEvents_of_no_wait h, ?_, s.complete_trace, fun hleft heq => ?_, rfl, rfl⟩
  · rintro d n ops rfl hpending
    exact cutEvents_of_wait hpending
  · rw [s.complete_trace]
    exact List.prefix_append _ _
  · rw [s.complete_trace] at heq
    exact hleft (List.self_eq_append_right.mp heq)

/-- A step of a block that stays in reset. -/
theorem step_of_held {s u : State} (hu : s.sampleReset = u) (hrst : u.rst = true) : step s = .next u.holdReset := by
  rw [step, hu, blockStep_inReset hrst]

/-- Settles O34: while `rst` stays high the block is held, whatever the host does; released, it steps as from any state. -/
theorem resetHoldsUntilReleased : Obligations.ResetHoldsUntilReleased := by
  intro s rest hrst
  refine ⟨fun hstay => ?held, fun hrelease hpending => ⟨fun w ws hwords => ?taken, fun hwords => ?idle⟩⟩
  case held =>
    have hu : s.sampleReset = { s with resetScript := rest } := by
      obtain ⟨hscript, rfl⟩ | hscript | ⟨d, hscript⟩ := hstay
      · rw [← hscript]; exact State.sampleReset_none hscript
      · exact State.sampleReset_quiet hscript
      · exact State.sampleReset_assert_again hscript hrst
    exact ⟨_, step_of_held hu hrst, hrst, (State.atReset_iff _).mpr ⟨rfl, rfl, rfl, rfl⟩, rfl,
      by simp [State.cmdReady, hrst], rfl, rfl⟩
  case taken =>
    rw [step, State.sampleReset_release hrelease]
    exact blockStep_of_offered rfl hpending hwords
  case idle =>
    rw [step, State.sampleReset_release hrelease]
    exact ⟨_, blockStep_idle rfl hpending hwords, rfl, (State.cmdReady_iff _).mpr ⟨rfl, hpending⟩⟩

/-! ### Several blocks -/

/-- Settles O51: by the block's place in the list; its own step always answers a next state. -/
theorem blocksAreIndependent : Obligations.BlocksAreIndependent := by
  intro k blocks
  induction blocks generalizing k with
  | nil => exact ⟨[], by cases k <;> rfl, rfl, nofun⟩
  | cons b rest ih =>
    cases k with
    | zero =>
      obtain ⟨t, ht⟩ := noStepStops b
      refine ⟨t :: rest, by rw [stepBlock, ht], rfl, fun j s hs => ⟨fun hj => ?_, ?_⟩⟩
      · obtain ⟨j, rfl⟩ := Nat.exists_eq_succ_of_ne_zero hj
        exact hs
      · rintro rfl
        obtain rfl := Option.some.inj hs
        exact ⟨t, ht, rfl⟩
    | succ k =>
      obtain ⟨rest', hstep, hlength, hblocks⟩ := ih k
      refine ⟨b :: rest', by rw [stepBlock, hstep], by simp [hlength], fun j s hs => ?_⟩
      cases j with
      | zero => exact ⟨fun _ => hs, nofun⟩
      | succ j =>
        obtain ⟨hother, hown⟩ := hblocks j s hs
        exact ⟨fun hj => hother (hj <| congrArg Nat.succ ·), fun hj => hown (Nat.succ.inj hj)⟩

end Sys2Proof.Machine
end

section
/-! PROOFS for 20_memory.md section 1, 30_encoding.md part 2 and 70_reset_and_hazards.md sections 3 and 4: what every operation
sends, which registers it writes and how long it lasts (R53, R81, R181, R182), read off its list once. -/

namespace Sys2Proof.Machine

/-! ### The registers after an operation -/

/-- `DISPLAY_CONTROL_FLAGS` once an operation is over. -/
def displayFlagsAfter (c : Config) (r : Regs) : Instr → Byte
  | .begin _ _ _ => c.codes.dcDisplay
  | .displayOn => setFlag r.displayControlFlags c.codes.dcDisplay
  | .displayOff => clearFlag r.displayControlFlags c.codes.dcDisplay
  | .cursorOn => setFlag r.displayControlFlags c.codes.dcCursor
  | .cursorOff => clearFlag r.displayControlFlags c.codes.dcCursor
  | .blinkOn => setFlag r.displayControlFlags c.codes.dcBlink
  | .blinkOff => clearFlag r.displayControlFlags c.codes.dcBlink
  | _ => r.displayControlFlags

/-- `ENTRY_MODE_FLAGS` once an operation is over. -/
def entryFlagsAfter (c : Config) (r : Regs) : Instr → Byte
  | .begin _ _ _ => c.codes.eLeft
  | .textLtr => setFlag r.entryModeFlags c.codes.eLeft
  | .textRtl => clearFlag r.entryModeFlags c.codes.eLeft
  | .autoscrollOn => setFlag r.entryModeFlags c.codes.eShiftInc
  | .autoscrollOff => clearFlag r.entryModeFlags c.codes.eShiftInc
  | _ => r.entryModeFlags

/-- The registers once an operation is over: only a `BEGIN` writes others than the two flag registers. -/
def regsAfter (c : Config) (r : Regs) (i : Instr) : Regs :=
  match i with
  | .begin columns lines dots5x10 => beginRegs c columns lines dots5x10
  | i => { r with displayControlFlags := displayFlagsAfter c r i, entryModeFlags := entryFlagsAfter c r i }

theorem foldl_onRegs_flatMap_send (c : Config) (mode : SendMode) (vs : List Byte) (r : Regs) :
    (vs.flatMap fun v => send c v mode).foldl (fun r op => op.onRegs r) r = r := by
  induction vs with
  | nil => rfl
  | cons v vs ih => rw [List.flatMap_cons, List.foldl_append, foldl_onRegs_send, ih]

theorem foldl_onRegs_opsOf (c : Config) (r : Regs) (i : Instr) :
    (opsOf c r i).foldl (fun r op => op.onRegs r) r = regsAfter c r i := by
  cases i with
  | begin columns lines dots5x10 => exact foldl_onRegs_beginOps c columns lines dots5x10 r
  | clear => rw [opsOf, clearOps, List.foldl_append, foldl_onRegs_send]; rfl
  | home => rw [opsOf, homeOps, List.foldl_append, foldl_onRegs_send]; rfl
  | createChar slot glyph =>
    rw [opsOf, createCharOps, List.foldl_append, foldl_onRegs_send, foldl_onRegs_flatMap_send]; rfl
  | setCursor col row => exact foldl_onRegs_send c _ _ r
  | scrollLeft => exact foldl_onRegs_send c _ _ r
  | scrollRight => exact foldl_onRegs_send c _ _ r
  | putc byte => exact foldl_onRegs_send c _ _ r
  | _ => exact foldl_onRegs_writeCsr_send c _ _ _ _ r

theorem State.complete_accepted_regs {s : State} (i : Instr) (hready : s.cmdReady = true) :
    (s.accepted i).complete.regs = regsAfter s.cfg s.regs i := by
  rw [s.complete_accepted i hready, State.performAll_regs, foldl_onRegs_opsOf]

theorem regsAfter_of_not_begin (c : Config) (r : Regs) {i : Instr} (h : i.opcode ≠ 0x01) :
    regsAfter c r i =
      { r with displayControlFlags := displayFlagsAfter c r i, entryModeFlags := entryFlagsAfter c r i } := by
  cases i with
  | begin columns lines dots5x10 => exact absurd rfl h
  | _ => rfl

theorem regsAfter_displayControlFlags (c : Config) (r : Regs) (i : Instr) :
    (regsAfter c r i).displayControlFlags = displayFlagsAfter c r i := by
  cases i <;> rfl

theorem regsAfter_entryModeFlags (c : Config) (r : Regs) (i : Instr) :
    (regsAfter c r i).entryModeFlags = entryFlagsAfter c r i := by
  cases i <;> rfl

/-- Only a `BEGIN` and the six display operations write `DISPLAY_CONTROL_FLAGS`. -/
theorem displayFlagsAfter_of_opcode (c : Config) (r : Regs) {i : Instr}
    (h : i.opcode ∉ [0x01, 0x05, 0x06, 0x07, 0x08, 0x09, 0x0A]) :
    displayFlagsAfter c r i = r.displayControlFlags := by
  cases i with
  | begin _ _ _ => exact absurd List.mem_cons_self h
  | displayOn | displayOff | cursorOn | cursorOff | blinkOn | blinkOff =>
    exact absurd (by decide) h
  | _ => rfl

/-- Only a `BEGIN` and the four entry-mode operations write `ENTRY_MODE_FLAGS`. -/
theorem entryFlagsAfter_of_opcode (c : Config) (r : Regs) {i : Instr}
    (h : i.opcode ∉ [0x01, 0x0D, 0x0E, 0x0F, 0x10]) : entryFlagsAfter c r i = r.entryModeFlags := by
  cases i with
  | begin _ _ _ => exact absurd List.mem_cons_self h
  | textLtr | textRtl | autoscrollOn | autoscrollOff => exact absurd (by decide) h
  | _ => rfl

/-- Settles O45: by the registers after each operation. -/
theorem registerWriters : Obligations.RegisterWriters := by
  intro s i hready hwf
  refine ⟨_, exec_wellFormed_ready hwf hready, ?_⟩
  rw [s.complete_accepted_regs i hready, regsAfter_displayControlFlags, regsAfter_entryModeFlags]
  refine ⟨fun hi => ?_, displayFlagsAfter_of_opcode s.cfg s.regs, entryFlagsAfter_of_opcode s.cfg s.regs⟩
  rw [regsAfter_of_not_begin s.cfg s.regs hi]
  exact ⟨rfl, rfl, rfl⟩

/-! ### What an operation sends -/

/-- The send list of an operation (00_scope.md R13). -/
def sendsOf (c : Config) (r : Regs) (i : Instr) : List (SendMode × Byte) :=
  match i with
  | .begin _ lines dots5x10 =>
    let f := c.codes.kFunction ||| functionFlagsFor c lines dots5x10
    (match c.width with
      | .fourBit => []
      | .eightBit => [(.command, f), (.command, f), (.command, f)]) ++
    [(.command, f), (.command, c.codes.kDisplayCtrl ||| c.codes.dcDisplay), (.command, c.codes.kClear),
      (.command, c.codes.kEntryMode ||| c.codes.eLeft)]
  | .clear => [(.command, c.codes.kClear)]
  | .home => [(.command, c.codes.kHome)]
  | .setCursor col row => [(.command, c.codes.kSetDdram ||| ddramAddress r col row)]
  | .displayOn | .displayOff | .cursorOn | .cursorOff | .blinkOn | .blinkOff =>
    [(.command, c.codes.kDisplayCtrl ||| displayFlagsAfter c r i)]
  | .scrollLeft => [(.command, c.codes.kShift ||| c.codes.shDisplay)]
  | .scrollRight => [(.command, c.codes.kShift ||| c.codes.shDisplay ||| c.codes.shRight)]
  | .textLtr | .textRtl | .autoscrollOn | .autoscrollOff =>
    [(.command, c.codes.kEntryMode ||| entryFlagsAfter c r i)]
  | .createChar slot glyph =>
    (.command, c.codes.kSetCgram ||| cgramAddress slot) :: (glyphRows glyph).map fun row => (.data, row)
  | .putc byte => [(.data, byte)]

/-- Steps 3 and 4 of a `BEGIN`: `RS` is written, but `EN` after it. -/
theorem readsAs_powerOn_startingPoint (c : Config) (place : SendScan) (n : Nat) :
    ReadsAs place ([.wait n] ++ startingPoint c) [] := by
  unfold startingPoint rwLow
  split <;> cases place <;> exact ⟨rfl, rfl⟩

/-- The single nibbles of the 4-bit handshake are no sends; each function set of the 8-bit one is (R102). -/
theorem readsAs_handshake (c : Config) (f : Byte) :
    ReadsAs .outside (handshake c f)
      (match c.width with
        | .fourBit => []
        | .eightBit =>
          [(.command, c.codes.kFunction ||| f), (.command, c.codes.kFunction ||| f),
            (.command, c.codes.kFunction ||| f)]) := by
  unfold handshake sendFunctionSet
  cases c.width with
  | fourBit =>
    exact ((((((ReadsAs.writeBits c _ 4).append (.wait _)).append (.writeBits c _ 4)).append (.wait _)).append
      (.writeBits c _ 4)).append (.wait _)).append (.writeBits c _ 4)
  | eightBit =>
    exact ((((ReadsAs.send c _ _).append (.wait _)).append (.send c _ _)).append (.wait _)).append (.send c _ _)

/-- Steps 6 to 9 of a `BEGIN`. -/
theorem readsAs_beginDefaults (c : Config) (f : Byte) :
    ReadsAs .outside (beginDefaults c f)
      [(.command, c.codes.kFunction ||| f), (.command, c.codes.kDisplayCtrl ||| c.codes.dcDisplay),
        (.command, c.codes.kClear), (.command, c.codes.kEntryMode ||| c.codes.eLeft)] :=
  ((((((ReadsAs.send c _ _).append (.writeCsr _ _)).append (.send c _ _)).append (.send c _ _)).append (.wait _)).append
    (.writeCsr _ _)).append (.send c _ _)

/-- Wherever the reader stands before it, an operation reads as its sends. -/
theorem readsAs_opsOf (c : Config) (r : Regs) (place : SendScan) (i : Instr) :
    ReadsAs place (opsOf c r i) (sendsOf c r i) := by
  cases i with
  | begin columns lines dots5x10 =>
    have htraffic := ((readsAs_powerOn_startingPoint c place c.timing.tPowerOn).append
      (readsAs_handshake c (functionFlagsFor c lines dots5x10))).append
      (readsAs_beginDefaults c (functionFlagsFor c lines dots5x10))
    exact htraffic
  | clear => exact (ReadsAs.send c _ _).append (.wait _)
  | home => exact (ReadsAs.send c _ _).append (.wait _)
  | createChar slot glyph => exact (ReadsAs.send c _ _).append (.flatMap_send c _ _)
  | setCursor col row => exact .send c _ _
  | scrollLeft => exact .send c _ _
  | scrollRight => exact .send c _ _
  | putc byte => exact .send c _ _
  | _ => exact (ReadsAs.send c _ _).cons_writeCsr _ _

theorem sendList_opsOf (c : Config) (r : Regs) (i : Instr) : sendList (traceOf (opsOf c r i)) = sendsOf c r i :=
  (readsAs_opsOf c r .outside i).1

theorem sendList_append_opsOf (t : List TraceEvent) (c : Config) (r : Regs) (i : Instr) :
    sendList (t ++ traceOf (opsOf c r i)) = sendList t ++ sendsOf c r i := by
  rw [sendList, sendsFrom_append, (readsAs_opsOf c r _ i).1, sendList]

/-! ### How an operation ends -/

theorem endsSettled_send (c : Config) (v : Byte) (mode : SendMode) : endsSettled c (send c v mode) = true :=
  (SettledOps.send c v mode).settles

theorem endsSettled_writeCsr_send (c : Config) (reg : Csr) (f v : Byte) (mode : SendMode) :
    endsSettled c (.writeCsr reg f :: send c v mode) = true :=
  (endsSettled_append c [_] (ne_nil_of_endsSettled (endsSettled_send c v mode))).trans (endsSettled_send c v mode)

/-- Settles O48: every list ends in a send, or in the long wait of `CLEAR` and `HOME`. -/
theorem operationsEndSettled : Obligations.OperationsEndSettled := by
  intro c r i hc
  cases i with
  | begin columns lines dots5x10 =>
    have htraffic := (settledOps_beginWaitAndTraffic hc (functionFlagsFor c lines dots5x10)).settles
    exact (endsSettled_append c _ (ne_nil_of_endsSettled htraffic)).trans htraffic
  | clear => exact ((SettledOps.send c _ _).append_wait (tSettle_le_tClearHome hc)).settles
  | home => exact ((SettledOps.send c _ _).append_wait (tSettle_le_tClearHome hc)).settles
  | createChar slot glyph => exact ((SettledOps.flatMap_send c _ _ _).append_left (all_legal_send c _ _)).settles
  | setCursor col row => exact endsSettled_send c _ _
  | scrollLeft => exact endsSettled_send c _ _
  | scrollRight => exact endsSettled_send c _ _
  | putc byte => exact endsSettled_send c _ _
  | _ => exact endsSettled_writeCsr_send c _ _ _ _

end Sys2Proof.Machine
end

section
/-! PROOFS for 10_state.md section 3: each flag register mirrors what was last sent to the matching controller register (R29).
An operation's sends and its register writes go together: what it sends of a form last is its base or-ed with the register
it leaves, and where it sends nothing of the form it leaves the register alone. -/

namespace Sys2Proof.Machine

/-! ### The last command of one form -/

theorem lastCommand_append (form : Byte → Bool) (xs ys : List (SendMode × Byte)) :
    lastCommand form (xs ++ ys) = (lastCommand form ys).or (lastCommand form xs) := by
  simp only [lastCommand, List.filter_append, List.getLast?_append]
  cases (ys.filter fun p => p.1 == .command && form p.2).getLast? <;> rfl

theorem lastCommand_command (form : Byte → Bool) (b : Byte) :
    lastCommand form [(.command, b)] = if form b then some b else none := by
  cases h : form b <;> simp [lastCommand, h]

theorem lastCommand_data (form : Byte → Bool) (vs : List Byte) :
    lastCommand form (vs.map fun v => (.data, v)) = none := by
  have hfilter : (vs.map fun v => (SendMode.data, v)).filter (fun p => p.1 == .command && form p.2) = [] := by
    simp
  rw [lastCommand, hfilter]
  rfl

/-! ### One register and the commands of its form -/

/-- `sends` leave the controller's register at `new`, or at `old` where they hold no command of its form. -/
def Updates (form : Byte → Bool) (base old new : Byte) (sends : List (SendMode × Byte)) : Prop :=
  lastCommand form sends = none ∧ new = old ∨ lastCommand form sends = some (base ||| new)

namespace Updates

variable {form : Byte → Bool} {base old mid new b : Byte} {xs ys : List (SendMode × Byte)}

theorem append (hx : Updates form base old mid xs) (hy : Updates form base mid new ys) :
    Updates form base old new (xs ++ ys) := by
  rw [Updates, lastCommand_append]
  obtain ⟨hnone, rfl⟩ | hsome := hy
  · rw [hnone]; exact hx
  · rw [hsome]; exact .inr rfl

/-- A command of another form. -/
theorem other (hb : form b = false) : Updates form base old old [(.command, b)] :=
  .inl ⟨by rw [lastCommand_command, hb]; rfl, rfl⟩

/-- The command of the form. -/
theorem command (hb : form (base ||| new) = true) : Updates form base old new [(.command, base ||| new)] :=
  .inr (by rw [lastCommand_command, hb]; rfl)

theorem data (vs : List Byte) : Updates form base old old (vs.map fun v => (.data, v)) :=
  .inl ⟨lastCommand_data form vs, rfl⟩

/-- What R29 asks of one register, after more sends. -/
theorem mirror (hy : Updates form base old new ys) (hx : ∀ b, lastCommand form xs = some b → b = base ||| old) :
    ∀ b, lastCommand form (xs ++ ys) = some b → b = base ||| new := by
  intro b hb
  rw [lastCommand_append] at hb
  obtain ⟨hnone, rfl⟩ | hsome := hy
  · rw [hnone] at hb
    exact hx b hb
  · rw [hsome] at hb
    exact (Option.some.inj hb).symm

end Updates

/-! ### The three flag registers together -/

/-- `sends` leave the controller's three flag registers as `r'` says, `r` being what they were. -/
structure Refreshes (c : Config) (r r' : Regs) (sends : List (SendMode × Byte)) : Prop where
  function : Updates isFunctionSet c.codes.kFunction r.functionFlags r'.functionFlags sends
  display : Updates isDisplayControl c.codes.kDisplayCtrl r.displayControlFlags r'.displayControlFlags sends
  entry : Updates isEntryMode c.codes.kEntryMode r.entryModeFlags r'.entryModeFlags sends

/-- A command of none of the three forms. -/
def isOtherCommand (b : Byte) : Bool := !isFunctionSet b && !isDisplayControl b && !isEntryMode b

theorem functionSet_forms {f : Byte} (hf : f &&& 0xE0 = 0) :
    isFunctionSet (0x20 ||| f) = true ∧ isDisplayControl (0x20 ||| f) = false ∧ isEntryMode (0x20 ||| f) = false := by
  revert f
  decide

theorem displayControl_forms {f : Byte} (hf : f &&& 0xF8 = 0) :
    isFunctionSet (0x08 ||| f) = false ∧ isDisplayControl (0x08 ||| f) = true ∧ isEntryMode (0x08 ||| f) = false := by
  revert f
  decide

theorem entryMode_forms {f : Byte} (hf : f &&& 0xFC = 0) :
    isFunctionSet (0x04 ||| f) = false ∧ isDisplayControl (0x04 ||| f) = false ∧ isEntryMode (0x04 ||| f) = true := by
  revert f
  decide

theorem isOtherCommand_setDdram (a : Byte) : isOtherCommand (0x80 ||| a) = true := by
  revert a
  decide

theorem isOtherCommand_setCgram (slot : Byte) : isOtherCommand (0x40 ||| cgramAddress slot) = true := by
  revert slot
  decide

namespace Refreshes

variable {c : Config} {r r' r'' : Regs} {xs ys : List (SendMode × Byte)}

theorem append (hx : Refreshes c r r' xs) (hy : Refreshes c r' r'' ys) : Refreshes c r r'' (xs ++ ys) :=
  ⟨hx.function.append hy.function, hx.display.append hy.display, hx.entry.append hy.entry⟩

theorem other {b : Byte} (hb : isOtherCommand b = true) : Refreshes c r r [(.command, b)] := by
  obtain ⟨⟨hfunction, hdisplay⟩, hentry⟩ : (isFunctionSet b = false ∧ isDisplayControl b = false) ∧
    isEntryMode b = false := by simpa [isOtherCommand] using hb
  exact ⟨.other hfunction, .other hdisplay, .other hentry⟩

theorem data (vs : List Byte) : Refreshes c r r (vs.map fun v => (.data, v)) := ⟨.data vs, .data vs, .data vs⟩

variable (hcodes : c.codes = {})
include hcodes

theorem functionSet {f : Byte} (hf : f &&& 0xE0 = 0) :
    Refreshes c r { r with functionFlags := f } [(.command, c.codes.kFunction ||| f)] := by
  obtain ⟨hfunction, hdisplay, hentry⟩ := functionSet_forms hf
  rw [← show c.codes.kFunction = 0x20 from congrArg Codes.kFunction hcodes] at hfunction hdisplay hentry
  exact ⟨.command hfunction, .other hdisplay, .other hentry⟩

theorem displayControl {f : Byte} (hf : f &&& 0xF8 = 0) :
    Refreshes c r { r with displayControlFlags := f } [(.command, c.codes.kDisplayCtrl ||| f)] := by
  obtain ⟨hfunction, hdisplay, hentry⟩ := displayControl_forms hf
  rw [← show c.codes.kDisplayCtrl = 0x08 from congrArg Codes.kDisplayCtrl hcodes] at hfunction hdisplay hentry
  exact ⟨.other hfunction, .command hdisplay, .other hentry⟩

theorem entryMode {f : Byte} (hf : f &&& 0xFC = 0) :
    Refreshes c r { r with entryModeFlags := f } [(.command, c.codes.kEntryMode ||| f)] := by
  obtain ⟨hfunction, hdisplay, hentry⟩ := entryMode_forms hf
  rw [← show c.codes.kEntryMode = 0x04 from congrArg Codes.kEntryMode hcodes] at hfunction hdisplay hentry
  exact ⟨.other hfunction, .other hdisplay, .command hentry⟩

end Refreshes

/-! ### Every operation refreshes what it writes -/

theorem displayFlagsAfter_reserved {c : Config} {r : Regs} (hcodes : c.codes = {}) (hr : r.legal c = true)
    (i : Instr) : displayFlagsAfter c r i &&& 0xF8 = 0 := by
  obtain ⟨hdisplay, -⟩ := Regs.reserved_of_legal hr
  cases i with
  | begin _ _ _ =>
    change c.codes.dcDisplay &&& 0xF8 = 0
    rw [hcodes]
    rfl
  | displayOn | cursorOn | blinkOn => exact setFlag_reserved hdisplay (by rw [hcodes]; rfl)
  | displayOff | cursorOff | blinkOff => exact clearFlag_reserved _ hdisplay
  | _ => exact hdisplay

theorem entryFlagsAfter_reserved {c : Config} {r : Regs} (hcodes : c.codes = {}) (hr : r.legal c = true)
    (i : Instr) : entryFlagsAfter c r i &&& 0xFC = 0 := by
  obtain ⟨-, hentry⟩ := Regs.reserved_of_legal hr
  cases i with
  | begin _ _ _ =>
    change c.codes.eLeft &&& 0xFC = 0
    rw [hcodes]
    rfl
  | textLtr | autoscrollOn => exact setFlag_reserved hentry (by rw [hcodes]; rfl)
  | textRtl | autoscrollOff => exact clearFlag_reserved _ hentry
  | _ => exact hentry

/-- The flags a `BEGIN` computes, in a block with the default constants. -/
theorem functionFlagsFor_reserved {c : Config} (hcodes : c.codes = {}) (lines : Byte) (dots5x10 : Bool) :
    functionFlagsFor c lines dots5x10 &&& 0xE0 = 0 := by
  have hflag (b : Bool) {m : Byte} (hm : m &&& 0xE0 = 0) : flagWhen b m &&& 0xE0 = 0 := by
    cases b with
    | false => exact BitVec.zero_and
    | true => exact hm
  have hor {f g : Byte} (hf : f &&& 0xE0 = 0) (hg : g &&& 0xE0 = 0) : (f ||| g) &&& 0xE0 = 0 := setFlag_reserved hf hg
  rw [functionFlagsFor, interfaceFlag, hcodes]
  exact hor (hor (hflag _ rfl) (hflag _ rfl)) (hflag _ rfl)

/-- The sends of a `BEGIN`: the function set, once or four times, then the other two forms, with a `CLEAR` between. -/
theorem refreshes_begin {c : Config} {r : Regs} (hcodes : c.codes = {}) (columns lines : Byte) (dots5x10 : Bool) :
    Refreshes c r (beginRegs c columns lines dots5x10) (sendsOf c r (.begin columns lines dots5x10)) := by
  have hflags := functionFlagsFor_reserved hcodes lines dots5x10
  have hfunction (r : Regs) := Refreshes.functionSet (r := r) hcodes hflags
  have hhandshake : ∃ r' : Regs, Refreshes c r r'
      (match c.width with
        | .fourBit => []
        | .eightBit =>
          let f := c.codes.kFunction ||| functionFlagsFor c lines dots5x10
          [(.command, f), (.command, f), (.command, f)]) := by
    cases c.width with
    | fourBit => exact ⟨r, .data []⟩
    | eightBit => exact ⟨_, ((hfunction r).append (hfunction _)).append (hfunction _)⟩
  obtain ⟨r', hhandshake⟩ := hhandshake
  have hclear : isOtherCommand c.codes.kClear = true := by rw [hcodes]; rfl
  have hdisplay (r : Regs) := Refreshes.displayControl (r := r) (f := c.codes.dcDisplay) hcodes (by rw [hcodes]; rfl)
  have hentry (r : Regs) := Refreshes.entryMode (r := r) (f := c.codes.eLeft) hcodes (by rw [hcodes]; rfl)
  have hall := hhandshake.append ((((hfunction r').append (hdisplay _)).append (.other hclear)).append (hentry _))
  exact ⟨hall.function, hall.display, hall.entry⟩

theorem refreshes_sendsOf {c : Config} {r : Regs} (hcodes : c.codes = {}) (hr : r.legal c = true) (i : Instr) :
    Refreshes c r (regsAfter c r i) (sendsOf c r i) := by
  cases i with
  | begin columns lines dots5x10 => exact refreshes_begin hcodes columns lines dots5x10
  | clear => exact .other (by rw [hcodes]; rfl)
  | home => exact .other (by rw [hcodes]; rfl)
  | setCursor col row => exact .other (by rw [hcodes]; exact isOtherCommand_setDdram _)
  | scrollLeft => exact .other (by rw [hcodes]; rfl)
  | scrollRight => exact .other (by rw [hcodes]; rfl)
  | putc byte => exact .data [byte]
  | createChar slot glyph =>
    exact (Refreshes.other (by rw [hcodes]; exact isOtherCommand_setCgram slot)).append (.data (glyphRows glyph))
  | displayOn | displayOff | cursorOn | cursorOff | blinkOn | blinkOff =>
    exact .displayControl hcodes (displayFlagsAfter_reserved hcodes hr _)
  | textLtr | textRtl | autoscrollOn | autoscrollOff =>
    exact .entryMode hcodes (entryFlagsAfter_reserved hcodes hr _)

/-! ### One step -/

/-- `Mirrors` looks at the trace, the registers and the configuration alone. -/
theorem Mirrors.of_same {s t : State} (h : Mirrors s) (htrace : t.trace = s.trace) (hregs : t.regs = s.regs)
    (hcfg : t.cfg = s.cfg) : Mirrors t := by
  unfold Mirrors
  rw [htrace, hregs, hcfg]
  exact h

/-- Where nothing has been sent there is nothing to mirror. -/
theorem mirrors_of_trace_nil {s : State} (h : s.trace = []) : Mirrors s := by
  unfold Mirrors
  rw [h]
  exact ⟨nofun, nofun, nofun⟩

theorem mirrors_performAll_opsOf {s : State} (hcodes : s.cfg.codes = {}) (hr : s.regs.legal s.cfg = true)
    (h : Mirrors s) (i : Instr) : Mirrors (s.performAll (opsOf s.cfg s.regs i)) := by
  obtain ⟨hfunction, hdisplay, hentry⟩ := h
  have hrefresh := refreshes_sendsOf hcodes hr i
  unfold Mirrors
  rw [State.performAll_trace, sendList_append_opsOf, State.performAll_regs, foldl_onRegs_opsOf, State.performAll_cfg]
  exact ⟨hrefresh.function.mirror hfunction, hrefresh.display.mirror hdisplay, hrefresh.entry.mirror hentry⟩

theorem State.complete_regs (s : State) :
    s.complete.regs = s.pending.foldl (fun r op => op.onRegs r) s.regs := by
  rw [State.complete, State.performAll_regs]

theorem State.complete_cfg (s : State) : s.complete.cfg = s.cfg := by
  rw [State.complete, State.performAll_cfg]

/-- The inputs, the latches and the fault record do not matter to the mirror. -/
theorem MirrorsWhenDone.of_same {s t : State} (h : MirrorsWhenDone s) (htrace : t.trace = s.trace)
    (hregs : t.regs = s.regs) (hpending : t.pending = s.pending) (hcfg : t.cfg = s.cfg) : MirrorsWhenDone t := by
  refine Mirrors.of_same h ?_ ?_ ?_
  · rw [t.complete_trace, s.complete_trace, htrace, hpending]
  · rw [t.complete_regs, s.complete_regs, hregs, hpending]
  · rw [t.complete_cfg, s.complete_cfg, hcfg]

theorem mirrorsWhenDone_of_reset {s : State} (htrace : s.trace = []) (hpending : s.pending = []) :
    MirrorsWhenDone s := by
  refine mirrors_of_trace_nil ?_
  rw [s.complete_trace, htrace, hpending]
  rfl

/-- Settles O39: nothing has been sent. -/
theorem resetMirrors : Obligations.ResetMirrors := fun _ => mirrorsWhenDone_of_reset rfl rfl

theorem MirrorsWhenDone.raiseIllegal {s : State} (h : MirrorsWhenDone s) (cause : IllegalCause) (opcode : Byte) :
    MirrorsWhenDone (s.raiseIllegal cause opcode) :=
  h.of_same (s.raiseIllegal_trace cause opcode) (s.raiseIllegal_regs cause opcode) (s.raiseIllegal_pending cause opcode)
    (s.raiseIllegal_cfg cause opcode)

theorem MirrorsWhenDone.exec {s t : State} {i : Instr} (h : MirrorsWhenDone s) (hinv : Inv s)
    (ht : exec i s = .next t) : MirrorsWhenDone t := by
  cases hready : s.cmdReady with
  | false =>
    rw [exec_not_ready i s hready] at ht
    obtain rfl := Host.Outcome.next.inj ht
    exact h
  | true =>
    cases hwf : i.wellFormed with
    | false =>
      rw [exec_illFormed_ready hwf hready] at ht
      obtain rfl := Host.Outcome.next.inj ht
      exact h.raiseIllegal _ _
    | true =>
      rw [exec_wellFormed_ready hwf hready] at ht
      obtain rfl := Host.Outcome.next.inj ht
      rw [MirrorsWhenDone, s.complete_of_idle (s.cmdReady_iff.mp hready).2] at h
      rw [MirrorsWhenDone, s.complete_accepted i hready]
      exact mirrors_performAll_opsOf hinv.standard.2 hinv.regs h i

theorem MirrorsWhenDone.acceptWord {s t : State} {w : CommandWord} (h : MirrorsWhenDone s) (hinv : Inv s)
    (ht : acceptWord w s = .next t) : MirrorsWhenDone t := by
  cases hdecode : decode w with
  | op i => exact h.exec hinv (by rwa [acceptWord_op hdecode] at ht)
  | illegal cause =>
    rw [acceptWord_illegal hdecode] at ht
    obtain rfl := Host.Outcome.next.inj ht
    exact h.raiseIllegal _ _

theorem MirrorsWhenDone.blockStep {s t : State} (h : MirrorsWhenDone s) (hinv : Inv s)
    (ht : blockStep s = .next t) : MirrorsWhenDone t := by
  obtain ⟨-, hstep⟩ | ⟨-, op, rest, hpending, hstep⟩ | ⟨-, -, -, hstep⟩ | ⟨-, -, w, ws, -, hstep⟩ :=
      blockStep_cases s <;> rw [hstep] at ht
  case inr.inr.inr =>
    have hpopped : MirrorsWhenDone { s with words := ws } := h.of_same rfl rfl rfl rfl
    exact hpopped.acceptWord (hinv.of_same_block rfl rfl rfl rfl rfl id) ht
  all_goals obtain rfl := Host.Outcome.next.inj ht
  · exact mirrorsWhenDone_of_reset rfl rfl
  · rw [MirrorsWhenDone, State.complete_step s op rest hpending]
    exact h
  · exact h

theorem MirrorsWhenDone.sampleReset {s : State} (h : MirrorsWhenDone s) : MirrorsWhenDone s.sampleReset := by
  obtain ⟨-, hs⟩ | ⟨rest, -, hs⟩ | ⟨d, rest, -, hs⟩ | ⟨rest, -, hs⟩ := s.sampleReset_cases <;> rw [hs]
  · exact h
  · exact h.of_same rfl rfl rfl rfl
  · unfold State.assertReset
    split
    · exact h.of_same rfl rfl rfl rfl
    · exact mirrorsWhenDone_of_reset rfl rfl
  · exact h.of_same rfl rfl rfl rfl

/-- Settles O40: the host's move, then the block's step; an accepted operation refreshes every register it writes. -/
theorem stepKeepsMirror : Obligations.StepKeepsMirror :=
  fun _ _ hinv h hstep => h.sampleReset.blockStep hinv.sampleReset hstep

/-! ### After a `BEGIN` -/

theorem isSome_lastCommand_of_mem {form : Byte → Bool} {b : Byte} {sends : List (SendMode × Byte)}
    (hmem : (.command, b) ∈ sends) (hb : form b = true) : (lastCommand form sends).isSome = true := by
  have hfilter : (.command, b) ∈ sends.filter fun p => p.1 == .command && form p.2 := by simp [hmem, hb]
  rw [lastCommand, Option.isSome_map, List.getLast?_isSome]
  exact List.ne_nil_of_mem hfilter

/-- The three flag commands of a completed `BEGIN` stand in the send list. -/
theorem mem_sendList_of_begun {s : State} (h : Begun s) :
    ∃ lines dots5x10,
      (.command, s.cfg.codes.kFunction ||| functionFlagsFor s.cfg lines dots5x10) ∈ sendList s.trace ∧
      (.command, s.cfg.codes.kDisplayCtrl ||| s.cfg.codes.dcDisplay) ∈ sendList s.trace ∧
      (.command, s.cfg.codes.kEntryMode ||| s.cfg.codes.eLeft) ∈ sendList s.trace := by
  obtain ⟨before, after, columns, lines, dots5x10, -, htrace⟩ := h
  have hops := sendList_append_opsOf before s.cfg s.regs (.begin columns lines dots5x10)
  have hsub : sendsOf s.cfg s.regs (.begin columns lines dots5x10) ⊆ sendList s.trace := by
    rw [htrace, sendList, sendsFrom_append, ← sendList]
    rw [opsOf] at hops
    rw [hops]
    exact fun _ hmem => List.mem_append_left _ (List.mem_append_right _ hmem)
  refine ⟨lines, dots5x10, hsub ?_, hsub ?_, hsub ?_⟩ <;> simp [sendsOf]

/-- A register that mirrors its form, where a command of the form has been sent. -/
theorem lastCommand_eq_of_mem {form : Byte → Bool} {b base flag : Byte} {sends : List (SendMode × Byte)}
    (hmem : (.command, b) ∈ sends) (hb : form b = true)
    (hmirror : ∀ b, lastCommand form sends = some b → b = base ||| flag) :
    lastCommand form sends = some (base ||| flag) := by
  obtain ⟨last, hlast⟩ := Option.isSome_iff_exists.mp (isSome_lastCommand_of_mem hmem hb)
  rw [hlast, hmirror last hlast]

/-- Settles O41: the `BEGIN` has sent a command of each form, so the last of each is the one the register mirrors. -/
theorem mirrorAfterBegin : Obligations.MirrorAfterBegin := by
  intro s hinv hmirrors hpending hbegun
  rw [MirrorsWhenDone, s.complete_of_idle hpending] at hmirrors
  obtain ⟨hfunction, hdisplay, hentry⟩ := hmirrors
  obtain ⟨lines, dots5x10, hfunctionMem, hdisplayMem, hentryMem⟩ := mem_sendList_of_begun hbegun
  have hflags := functionFlagsFor_reserved hinv.standard.2 lines dots5x10
  rw [hinv.standard.2] at hfunction hdisplay hentry hfunctionMem hdisplayMem hentryMem
  exact ⟨lastCommand_eq_of_mem hfunctionMem (functionSet_forms hflags).1 hfunction,
    lastCommand_eq_of_mem hdisplayMem rfl hdisplay, lastCommand_eq_of_mem hentryMem rfl hentry⟩

end Sys2Proof.Machine
end

section
/-! PROOFS for 10_state.md sections 3, 5 and 6 and 60_exceptions.md R151: the register port, the reset state and the
construction of a block. -/

namespace Sys2Proof.Machine

/-! ### The two computed registers (R28) -/

theorem statusByte_bits (busy fault : Bool) :
    (statusByte busy fault).getLsbD 0 = busy ∧ (statusByte busy fault).getLsbD 1 = fault ∧
      statusByte busy fault &&& 0xFC = 0 := by
  revert busy fault
  decide

/-- `CONFIG` is built of its two bits as `STATUS` is. -/
theorem configByte_bits (c : Config) :
    (configByte c).getLsbD 0 = decide (c.width = .eightBit) ∧ (configByte c).getLsbD 1 = c.hasRw ∧
      configByte c &&& 0xFC = 0 :=
  statusByte_bits (c.width == .eightBit) c.hasRw

theorem State.busy_eq_decide (s : State) : s.busy = decide (s.pending ≠ []) := by
  rw [State.busy]
  cases s.pending <;> rfl

/-! ### The register port (R25) -/

theorem csrRead_reserved (s : State) {n : BitVec 4} (hn : 0xC ≤ n.toNat) : s.csrRead n = 0x00 := by
  unfold State.csrRead
  split
  case h_13 => rfl
  all_goals omega

/-- Settles O36: each stored register by its number, the computed ones bit by bit. -/
theorem registerPortMap : Obligations.RegisterPortMap := by
  intro s
  obtain ⟨hbusy, hfault, hstatus⟩ := statusByte_bits s.busy s.fault.fault
  obtain ⟨hwidth, hrw, hconfig⟩ := configByte_bits s.cfg
  refine ⟨rfl, rfl, rfl, rfl, rfl, rfl, rfl, rfl, ?_, hfault, hstatus, rfl, rfl, hwidth, hrw, hconfig,
    fun n hn => csrRead_reserved s hn, fun hrst => ?_⟩
  · rw [← s.busy_eq_decide]
    exact hbusy
  · rw [State.cmdReady, hrst, Bool.not_false, Bool.true_and]
    exact congrArg _ hbusy.symm

/-! ### The reset state (R33) -/

/-- Settles O32: the port read in the reset state, the constants at their defaults. -/
theorem resetState : Obligations.ResetState := by
  rintro ⟨width, hasRw, timing, codes⟩ s ⟨rfl, rfl⟩ rfl
  cases width <;> cases hasRw <;> decide

/-- Settles O37: the reset state is one the invariant holds in, whatever was before. -/
theorem resetSatisfiesInvariant : Obligations.ResetSatisfiesInvariant :=
  fun _ hc => .of_atReset hc ((State.atReset_iff _).mpr ⟨rfl, rfl, rfl, rfl⟩)

/-! ### Construction (R151) -/

theorem config_of_pins {p : PinPlan} (hrs : p.registerSelect ≠ none) (hen : p.enable ≠ none)
    (hdata : p.data.length = p.width.nData) : p.config = .ok { width := p.width, hasRw := p.readWrite.isSome } := by
  simp [PinPlan.config, hrs, hen, hdata]

theorem config_of_missing {p : PinPlan}
    (h : p.registerSelect = none ∨ p.enable = none ∨ p.data.length ≠ p.width.nData) : ∃ e, p.config = .error e := by
  unfold PinPlan.config
  split
  next => exact ⟨_, rfl⟩
  next hrs =>
    split
    next => exact ⟨_, rfl⟩
    next hen =>
      split
      next => exact ⟨_, rfl⟩
      next hdata =>
        rw [Option.isNone_iff_eq_none] at hrs hen
        exact absurd h (by simp only [hrs, hen, hdata, or_self, not_false_eq_true])

/-- Settles O49: construction is the configuration's reset state, or the configuration's error. -/
theorem constructionFailsFast : Obligations.ConstructionFailsFast := by
  intro p
  have hcount : (match p.width with | .fourBit => 4 | .eightBit => 8) = p.width.nData := by cases p.width <;> rfl
  refine ⟨fun ⟨hrs, hen, hdata⟩ => ?_, fun h => ?_⟩
  · rw [State.construct, config_of_pins hrs hen (hdata.trans hcount)]
  · obtain ⟨e, he⟩ := config_of_missing (h.imp_right (Or.imp_right (hcount ▸ ·)))
    exact ⟨e, by rw [State.construct, he]⟩

end Sys2Proof.Machine
end

section
/-! PROOFS for 30_encoding.md part 2, 45_data_commands.md R144 and 70_reset_and_hazards.md R182: the bytes an operation can send,
a text printed byte by byte, and how long each operation lasts. -/

namespace Sys2Proof.Machine

/-! ### The bytes a block can emit (R81) -/

/-- The command bytes of a block of one width. -/
def Emittable (w : Width) (b : Byte) : Prop :=
  (0x80 ≤ b.toNat ∨
    b ∈ [0x01, 0x02, 0x04, 0x05, 0x06, 0x07, 0x08, 0x09, 0x0A, 0x0B, 0x0C, 0x0D, 0x0E, 0x0F, 0x18, 0x1C,
         0x20, 0x24, 0x28, 0x30, 0x34, 0x38, 0x40, 0x48, 0x50, 0x58, 0x60, 0x68, 0x70, 0x78]) ∧
  (w = .fourBit → b ∉ [0x30, 0x34, 0x38]) ∧ (w = .eightBit → b ∉ [0x20, 0x24, 0x28])

/-- Of the bytes below 0x80, those a block of either width can emit. -/
def widthFreeCommands : List Byte :=
  [0x01, 0x02, 0x04, 0x05, 0x06, 0x07, 0x08, 0x09, 0x0A, 0x0B, 0x0C, 0x0D, 0x0E, 0x0F, 0x18, 0x1C,
   0x40, 0x48, 0x50, 0x58, 0x60, 0x68, 0x70, 0x78]

theorem emittable_of_widthFree (w : Width) {b : Byte} (hb : b ∈ widthFreeCommands) : Emittable w b := by
  unfold Emittable
  cases w <;> revert b <;> decide

theorem emittable_setDdram (w : Width) (a : Byte) : Emittable w (0x80 ||| a) := by
  unfold Emittable
  cases w <;> revert a <;> decide

theorem setCgram_widthFree (slot : Byte) : 0x40 ||| cgramAddress slot ∈ widthFreeCommands := by
  revert slot
  decide

theorem displayControl_widthFree {f : Byte} (hf : f &&& 0xF8 = 0) : 0x08 ||| f ∈ widthFreeCommands := by
  revert f
  decide

theorem entryMode_widthFree {f : Byte} (hf : f &&& 0xFC = 0) : 0x04 ||| f ∈ widthFreeCommands := by
  revert f
  decide

/-- A function-set byte carries the interface width, and the 5x10 flag only with one line (41_begin.md R103). -/
theorem emittable_functionSet {c : Config} (hcodes : c.codes = {}) (lines : Byte) (dots5x10 : Bool) :
    Emittable c.width (0x20 ||| functionFlagsFor c lines dots5x10) := by
  have hexclusive : ¬ (decide (1 < lines.toNat) = true ∧ (dots5x10 && lines == 1) = true) := by
    simp only [decide_eq_true_eq, Bool.and_eq_true, beq_iff_eq]
    rintro ⟨hlines, -, rfl⟩
    exact absurd hlines (by decide)
  rw [functionFlagsFor, interfaceFlag, hcodes]
  generalize decide (1 < lines.toNat) = twoLine at hexclusive ⊢
  generalize (dots5x10 && lines == 1) = tall at hexclusive ⊢
  unfold Emittable
  cases c.width <;> revert twoLine tall <;> decide

theorem eq_of_command_mem {b x : Byte} (h : (SendMode.command, b) ∈ [(SendMode.command, x)]) : b = x := by
  simpa using h

/-- The commands of a `BEGIN`: the function set, and three of either width. -/
theorem emittable_of_mem_sendsOf_begin {c : Config} {r : Regs} (hcodes : c.codes = {}) {columns lines : Byte}
    {dots5x10 : Bool} {b : Byte} (hb : (.command, b) ∈ sendsOf c r (.begin columns lines dots5x10)) :
    Emittable c.width b := by
  have hcases : b = c.codes.kFunction ||| functionFlagsFor c lines dots5x10 ∨
      b ∈ [c.codes.kDisplayCtrl ||| c.codes.dcDisplay, c.codes.kClear, c.codes.kEntryMode ||| c.codes.eLeft] := by
    unfold sendsOf at hb
    cases h : c.width <;> simpa [h] using hb
  have hfixed : ∀ b ∈ [(0x08 : Byte) ||| 0x04, 0x01, 0x04 ||| 0x02], b ∈ widthFreeCommands := by decide
  rw [hcodes] at hcases
  obtain rfl | hmem := hcases
  · exact emittable_functionSet hcodes lines dots5x10
  · exact emittable_of_widthFree _ (hfixed b hmem)

/-- Every command an operation sends, in a block with the default constants and legal registers. -/
theorem emittable_of_mem_sendsOf {c : Config} {r : Regs} (hcodes : c.codes = {}) (hr : r.legal c = true) {i : Instr}
    {b : Byte} (hb : (.command, b) ∈ sendsOf c r i) : Emittable c.width b := by
  cases i with
  | begin columns lines dots5x10 => exact emittable_of_mem_sendsOf_begin hcodes hb
  | clear | home | scrollLeft | scrollRight =>
    rw [eq_of_command_mem hb, hcodes]
    exact emittable_of_widthFree _ (by decide)
  | setCursor col row =>
    rw [eq_of_command_mem hb, hcodes]
    exact emittable_setDdram _ _
  | displayOn | displayOff | cursorOn | cursorOff | blinkOn | blinkOff =>
    have hreserved := displayFlagsAfter_reserved hcodes hr
    rw [eq_of_command_mem hb, hcodes]
    exact emittable_of_widthFree _ (displayControl_widthFree (hreserved _))
  | textLtr | textRtl | autoscrollOn | autoscrollOff =>
    have hreserved := entryFlagsAfter_reserved hcodes hr
    rw [eq_of_command_mem hb, hcodes]
    exact emittable_of_widthFree _ (entryMode_widthFree (hreserved _))
  | createChar slot glyph =>
    obtain hcommand | hdata := List.mem_cons.mp hb
    · obtain rfl := (Prod.mk.inj hcommand).2
      rw [hcodes]
      exact emittable_of_widthFree _ (setCgram_widthFree slot)
    · obtain ⟨row, -, hrow⟩ := List.mem_map.mp hdata
      cases hrow
  | putc byte => cases List.mem_singleton.mp hb

/-- Settles O46: the send list is the operation's sends, and each command among them is of a known form. -/
theorem emittedCommandBytes : Obligations.EmittedCommandBytes := by
  intro s i b hinv _ hb
  rw [sendList_opsOf] at hb
  exact emittable_of_mem_sendsOf hinv.standard.2 hinv.regs hb

/-! ### Least durations (R182) -/

/-- The least duration of a send. -/
def sendTime : Width → Nat
  | .fourBit => 204
  | .eightBit => 102

theorem leastTime_send_eq_sendTime {c : Config} (htiming : c.timing = {}) (v : Byte) (mode : SendMode) :
    leastTime (send c v mode) = sendTime c.width := by
  cases hwidth : c.width with
  | fourBit => exact leastTime_send_fourBit v mode htiming hwidth
  | eightBit => exact leastTime_send_eightBit v mode htiming hwidth

/-- The timing table's least duration of an operation. -/
def leastDuration (w : Width) : Instr → Nat
  | .begin _ _ _ => match w with
    | .fourBit => 62374
    | .eightBit => 57364
  | .clear | .home => sendTime w + 2000
  | .createChar _ _ => 9 * sendTime w
  | _ => sendTime w

@[simp] theorem leastTime_nil : leastTime [] = 0 := rfl

@[simp] theorem leastTime_cons (op : MicroOp) (ops : List MicroOp) :
    leastTime (op :: ops) = op.minTime + leastTime ops := rfl

theorem leastTime_handshake {c : Config} (htiming : c.timing = {}) (f : Byte) :
    leastTime (handshake c f) = match c.width with
      | .fourBit => 9558
      | .eightBit => 4956 := by
  have hsend := leastTime_send_eq_sendTime htiming
  unfold handshake sendFunctionSet
  cases h : c.width <;> simp [hsend, htiming, h, sendTime, MicroOp.minTime]

theorem leastTime_beginDefaults {c : Config} (htiming : c.timing = {}) (f : Byte) :
    leastTime (beginDefaults c f) = 4 * sendTime c.width + 2000 := by
  have hsend := leastTime_send_eq_sendTime htiming
  simp only [beginDefaults, sendFunctionSet, leastTime_append, leastTime_cons, leastTime_nil, hsend, htiming,
    MicroOp.minTime]
  omega

theorem leastTime_beginOps {c : Config} (htiming : c.timing = {}) (columns lines : Byte) (dots5x10 : Bool) :
    leastTime (beginOps c columns lines dots5x10) = leastDuration c.width (.begin columns lines dots5x10) := by
  have hstart : leastTime (startingPoint c) = 0 := by
    simp [startingPoint, MicroOp.minTime]
  simp only [beginOps, beginWaitAndTraffic, beginRegisterWrites, leastTime_append, leastTime_cons, leastTime_nil, hstart,
    leastTime_handshake htiming, leastTime_beginDefaults htiming, htiming, MicroOp.minTime]
  cases c.width <;> rfl

theorem leastTime_opsOf {c : Config} (htiming : c.timing = {}) (r : Regs) (i : Instr) :
    leastTime (opsOf c r i) = leastDuration c.width i := by
  have hsend := leastTime_send_eq_sendTime htiming
  cases i with
  | begin columns lines dots5x10 => exact leastTime_beginOps htiming columns lines dots5x10
  | clear | home => exact (leastTime_append_wait _ _).trans (by rw [hsend, htiming]; rfl)
  | createChar slot glyph => exact leastTime_createCharOps hsend slot glyph
  | setCursor | scrollLeft | scrollRight | putc => exact hsend _ _
  | _ => exact (leastTime_writeCsr_cons _ _ _).trans (hsend _ _)

/-! ### Numbers of micro-operations (R182) -/

/-- The number of micro-operations of a `BEGIN`. -/
def beginOpCount (w : Width) (hasRw : Bool) : Nat :=
  match w, hasRw with
  | .fourBit, true => 108
  | .fourBit, false => 103
  | .eightBit, true => 78
  | .eightBit, false => 70

/-- The timing table's number of micro-operations of an operation, `n` being that of a send. -/
def microOpCount (w : Width) (hasRw : Bool) (n : Nat) : Instr → Nat
  | .begin _ _ _ => beginOpCount w hasRw
  | .setCursor _ _ | .scrollLeft | .scrollRight | .putc _ => n
  | .createChar _ _ => 9 * n
  | _ => n + 1

theorem length_beginOps (c : Config) (columns lines : Byte) (dots5x10 : Bool) :
    (beginOps c columns lines dots5x10).length = beginOpCount c.width c.hasRw := by
  cases hwidth : c.width <;> cases hrw : c.hasRw <;>
    simp [beginOps, beginRegisterWrites, beginWaitAndTraffic, startingPoint, handshake, beginDefaults, sendFunctionSet,
      rwLow, length_send, beginOpCount, hwidth, hrw]

theorem length_opsOf {c : Config} {n : Nat} (hn : ∀ v mode, (send c v mode).length = n) (r : Regs) (i : Instr) :
    (opsOf c r i).length = microOpCount c.width c.hasRw n i := by
  cases i with
  | begin columns lines dots5x10 => exact length_beginOps c columns lines dots5x10
  | clear | home => exact List.length_append.trans (by rw [hn]; rfl)
  | createChar slot glyph =>
    have hops : opsOf c r (.createChar slot glyph) = createCharOps c slot glyph := rfl
    rw [hops, createCharOps_eq_sends]
    simp only [List.length_append, hn]
    change _ = 9 * n
    omega
  | setCursor | scrollLeft | scrollRight | putc => exact hn _ _
  | _ => exact List.length_cons.trans (by rw [hn]; rfl)

/-- Settles O47: the two tables, and the least time of a list performed. -/
theorem leastDurationsAndCounts : Obligations.LeastDurationsAndCounts := by
  rintro s i n ⟨htiming, -⟩ hready hwf rfl
  have hleast := s.leastTime_le_performAll (opsOf s.cfg s.regs i)
  rw [← s.complete_accepted i hready] at hleast
  refine ⟨_, exec_wellFormed_ready hwf hready, hleast, ?duration, ?count⟩
  case duration =>
    rw [leastTime_opsOf htiming]
    cases i <;> cases s.cfg.width <;> rfl
  case count =>
    rw [length_opsOf (length_send s.cfg)]
    cases i <;> cases s.cfg.width <;> cases s.cfg.hasRw <;> rfl

/-! ### Text (45_data_commands.md R144) -/

theorem expand_print_ops (c : Config) (r : Regs) (text : List Byte) :
    (Pseudo.print text).expand.flatMap (opsOf c r) = text.flatMap fun b => send c b .data := by
  rw [Pseudo.expand, List.flatMap_map]
  rfl

/-- Settles O50: a text is one data send per byte. -/
theorem printSendsTextInOrder : Obligations.PrintSendsTextInOrder := by
  rintro c r text ops ⟨htiming, -⟩ rfl
  rw [expand_print_ops]
  refine ⟨List.length_map _, (ReadsAs.flatMap_send c .data text).1, ?_⟩
  rw [leastTime_flatMap_send fun v => leastTime_send_eq_sendTime htiming v .data]
  cases c.width <;> rfl

end Sys2Proof.Machine
end

section
/-! PROOFS for 60_exceptions.md section 1, 42_cursor_commands.md R112 (a) and 20_memory.md section 3: operands corrected in
silence, and flag operations done twice (R154, R59). -/

namespace Sys2Proof.Machine

/-! ### `SET_CURSOR` beyond the last row -/

/-- At or beyond the line count the clamp gives the last row. -/
theorem clampedRow_of_le {row lineCount : Byte} (hpos : 1 ≤ lineCount.toNat) (hle : lineCount.toNat ≤ row.toNat) :
    clampedRow row lineCount = clampedRow (lineCount - 1) lineCount := by
  have hlast : (lineCount - 1).toNat = lineCount.toNat - 1 := BitVec.toNat_sub_of_le hpos
  refine Fin.ext ?_
  simp only [clampedRow, hlast]
  omega

/-- Settles O18: both rows are clamped to the same row of the table. -/
theorem setCursorClampsRow : Obligations.SetCursorClampsRow := by
  intro s col row hpos _ hle
  have haddress : ddramAddress s.regs col row = ddramAddress s.regs col (s.regs.lineCount - 1) := by
    rw [ddramAddress, clampedRow_of_le hpos hle, ← ddramAddress]
  rw [exec_of_not_begin _ s (by simp [Instr.opcode]), exec_of_not_begin _ s (by simp [Instr.opcode]), opsOf, opsOf,
    setCursorOps, setCursorOps, haddress]

/-! ### Requests that are dropped -/

theorem exec_createChar_and_seven (s : State) (slot : Byte) (g : Glyph) :
    exec (.createChar (slot &&& 0x07) g) s = exec (.createChar slot g) s := by
  rw [exec_of_not_begin _ s (by simp [Instr.opcode]), exec_of_not_begin _ s (by simp [Instr.opcode]), opsOf, opsOf,
    createCharOps_and_seven]

/-- With more than one line the 5x10 flag is not set (41_begin.md R103). -/
theorem functionFlagsFor_of_several_lines (c : Config) {lines : Byte} (h : 1 < lines.toNat) (dots5x10 : Bool) :
    functionFlagsFor c lines dots5x10 = functionFlagsFor c lines false := by
  have hlines : (lines == 1) = false := beq_eq_false_iff_ne.mpr fun h1 => by simp [h1] at h
  rw [functionFlagsFor, functionFlagsFor, hlines, Bool.and_false, Bool.false_and]

theorem exec_begin_of_several_lines (s : State) (columns : Byte) {lines : Byte} (h : 1 < lines.toNat)
    (dots5x10 : Bool) : exec (.begin columns lines dots5x10) s = exec (.begin columns lines false) s := by
  change execBegin _ _ _ s = execBegin _ _ _ s
  rw [execBegin, execBegin, beginRegisterWrites, beginRegisterWrites, functionFlagsFor_of_several_lines s.cfg h dots5x10]

/-! ### A flag operation done twice -/

theorem setFlag_setFlag (f m : Byte) : setFlag (setFlag f m) m = setFlag f m := by
  rw [setFlag, setFlag, BitVec.or_assoc, BitVec.or_self]

theorem clearFlag_clearFlag (f m : Byte) : clearFlag (clearFlag f m) m = clearFlag f m := by
  rw [clearFlag, clearFlag, BitVec.and_assoc, BitVec.and_self]

/-- The ten flag operations. -/
def flagOperations : List Instr :=
  [.displayOn, .displayOff, .cursorOn, .cursorOff, .blinkOn, .blinkOff, .textLtr, .textRtl, .autoscrollOn, .autoscrollOff]

/-- A flag operation writes one register and sends, and from the registers it leaves it does the same again. -/
theorem opsOf_flagOperation (c : Config) (r : Regs) {i : Instr} (hi : i ∈ flagOperations) :
    ∃ reg f v, opsOf c r i = .writeCsr reg f :: send c v .command ∧
      opsOf c (r.write reg f) i = .writeCsr reg f :: send c v .command := by
  cases i with
  | displayOn | cursorOn | blinkOn =>
    exact ⟨.displayControlFlags, _, _, rfl, congrArg (displayControlOps c) (setFlag_setFlag _ _)⟩
  | displayOff | cursorOff | blinkOff =>
    exact ⟨.displayControlFlags, _, _, rfl, congrArg (displayControlOps c) (clearFlag_clearFlag _ _)⟩
  | textLtr | autoscrollOn => exact ⟨.entryModeFlags, _, _, rfl, congrArg (entryModeOps c) (setFlag_setFlag _ _)⟩
  | textRtl | autoscrollOff => exact ⟨.entryModeFlags, _, _, rfl, congrArg (entryModeOps c) (clearFlag_clearFlag _ _)⟩
  | _ => simp [flagOperations] at hi

theorem Regs.write_write (r : Regs) (reg : Csr) (f : Byte) : (r.write reg f).write reg f = r.write reg f := by
  cases reg with
  | rowOffset row =>
    match row with
    | 0 | 1 | 2 | 3 => rfl
  | _ => rfl

/-- A ready block is ready again when the operation it took is over. -/
theorem complete_ready {s : State} (ops : List MicroOp) (hready : s.cmdReady = true) :
    State.cmdReady (State.complete { s with pending := ops }) = true := by
  refine (State.cmdReady_iff _).mpr ⟨?_, State.complete_pending _⟩
  rw [State.complete, State.performAll_rst]
  exact (s.cmdReady_iff.mp hready).1

/-- Settles O28: the corrections by the operands' own rules; a flag operation's second run starts from registers that give it
the same list. -/
theorem silentCorrectionsAndIdempotence : Obligations.SilentCorrectionsAndIdempotence := by
  refine ⟨fun s slot g => (exec_createChar_and_seven s slot g).symm,
    fun s columns lines h => exec_begin_of_several_lines s columns h true, fun s i hready hi => ?_⟩
  have hopcode : i.opcode ≠ 0x01 := by
    cases i with
    | begin _ _ _ => simp at hi
    | _ => simp [Instr.opcode]
  obtain ⟨reg, f, v, hops, hagain⟩ := opsOf_flagOperation s.cfg s.regs hi
  obtain ⟨t, hexec, rfl, hregs, -⟩ := exec_writeCsr_send_of_ready hopcode hops hready
  have hready' := complete_ready (.writeCsr reg f :: send s.cfg v .command) hready
  obtain ⟨u, hexec', rfl, hregs', -⟩ := exec_writeCsr_send_of_ready (reg := reg) (f := f) (v := v) (mode := .command)
    hopcode (by rw [hregs, State.complete_cfg]; exact hagain) hready'
  refine ⟨_, _, hexec, hexec', ?_, ?_⟩
  · rw [hregs', hregs, Regs.write_write]
  · rw [State.complete_cfg]

/-! ### A `BEGIN` with operands out of range -/

/-- Settles O30: both the decoder and `exec` check the operands first. -/
theorem beginRefusesBadOperands : Obligations.BeginRefusesBadOperands := by
  intro s columns lines dots5x10 hbad hready
  have hill : illegalBegin columns lines = true := (illegalBegin_iff _ _).mpr hbad
  refine ⟨fun w hop hcolumns hlines => ?_, ?_⟩
  · rw [decode_eq_illegalOperand_iff, hcolumns, hlines]
    exact ⟨hop, hill⟩
  · have hillFormed : (Instr.begin columns lines dots5x10).wellFormed = false := by
      rw [illegalBegin_eq, Bool.not_eq_true'] at hill
      exact hill
    rw [exec_illFormed_ready hillFormed hready, State.raiseIllegal_eq]
    rfl

end Sys2Proof.Machine
end

section
/-! PROOFS for 41_begin.md: the sequence of a `BEGIN`, its traffic on the pins, and what a register read sees during it (R100,
R102, R109). -/

namespace Sys2Proof.Machine

/-! ### Acceptance (R100) -/

/-- The six register writes at acceptance: registers and time, and nothing else. -/
theorem performAll_beginRegisterWrites (s : State) (columns lines : Byte) (dots5x10 : Bool) :
    ∃ d, s.performAll (beginRegisterWrites s.cfg columns lines dots5x10) =
      { s with
        regs :=
          { beginRegs s.cfg columns lines dots5x10 with
            displayControlFlags := s.regs.displayControlFlags
            entryModeFlags := s.regs.entryModeFlags }
        elapsed := s.elapsed + d
        draws := s.draws + 6 } := by
  have htime := s.leastTime_le_performAll (beginRegisterWrites s.cfg columns lines dots5x10)
  obtain ⟨d, hd⟩ := Nat.exists_eq_add_of_le (Nat.le_of_add_right_le htime)
  refine ⟨d, ?_⟩
  rw [← hd]
  simp [beginRegisterWrites, State.perform, MicroOp.events, MicroOp.onRegs, MicroOp.onPins, RowTable.setEntry, beginRegs]

/-- `FUNCTION_FLAGS` as R100 step 1 words it. -/
theorem functionFlagsFor_eq (c : Config) (lines : Byte) (dots5x10 : Bool) :
    functionFlagsFor c lines dots5x10 =
      (if c.width = .eightBit then c.codes.fn8Bit else 0) ||| (if 1 < lines.toNat then c.codes.fn2Line else 0)
          ||| (if dots5x10 = true ∧ lines = 1 then c.codes.fn5x10 else 0) := by
  simp [functionFlagsFor, interfaceFlag, flagWhen]

/-- Settles O24: the decoder's row for `BEGIN`, and acceptance as the six writes at once and the rest pending. -/
theorem beginSequence : Obligations.BeginSequence := by
  refine ⟨fun w hop hranges => ?_, fun w hop hranges => ?_, ?_⟩
  · rw [decode_begin_word hop, illegalBegin_eq, hranges, fieldD_eq_getLsbD]
    rfl
  · rw [decode_begin_word hop, illegalBegin_eq, hranges]
    rfl
  · rintro s columns lines dots5x10 c k f hready hranges rfl rfl rfl
    obtain ⟨d, hwrites⟩ := performAll_beginRegisterWrites s columns lines dots5x10
    refine ⟨d, ?_⟩
    rw [execBegin_of_ranges _ _ _ _ hranges, State.acceptAfter_ready _ _ _ hready, hwrites, ← functionFlagsFor_eq]
    simp only [beginWaitAndTraffic, startingPoint, handshake, beginDefaults, List.append_assoc]
    rfl

/-! ### Traffic (R102, R109) -/

theorem transferList_traceOf_append (xs ys : List MicroOp) :
    transferList (traceOf (xs ++ ys)) = transferList (traceOf xs) ++ transferList (traceOf ys) := by
  rw [traceOf_append, transferList_append]

theorem transferList_startingPoint (c : Config) : transferList (traceOf (startingPoint c)) = [] := by
  unfold startingPoint rwLow
  split <;> rfl

/-- The transfers of a `BEGIN`: those of the handshake, then those of its last four sends. -/
theorem transferList_beginOps (c : Config) (columns lines : Byte) (dots5x10 : Bool) :
    transferList (traceOf (beginOps c columns lines dots5x10)) =
      transferList (traceOf (handshake c (functionFlagsFor c lines dots5x10))) ++
      transfersOf c (c.codes.kFunction ||| functionFlagsFor c lines dots5x10) ++
      transfersOf c (c.codes.kDisplayCtrl ||| c.codes.dcDisplay) ++ transfersOf c c.codes.kClear ++
      transfersOf c (c.codes.kEntryMode ||| c.codes.eLeft) := by
  have hwrites : transferList (traceOf (beginRegisterWrites c columns lines dots5x10)) = [] := rfl
  have hwait (n : Nat) : transferList (traceOf [.wait n]) = [] := rfl
  have hwrite (reg : Csr) (v : Byte) : transferList (traceOf [.writeCsr reg v]) = [] := rfl
  simp only [beginOps, beginWaitAndTraffic, beginDefaults, sendFunctionSet, transferList_traceOf_append, hwrites, hwait,
    hwrite, transferList_startingPoint, transferList_send, List.nil_append, List.append_assoc]

theorem transferList_handshake_fourBit {c : Config} (hcodes : c.codes = {}) (hwidth : c.width = .fourBit) (f : Byte) :
    transferList (traceOf (handshake c f)) = [(4, 0x3), (4, 0x3), (4, 0x3), (4, 0x2)] := by
  unfold handshake
  rw [hwidth, hcodes]
  rfl

theorem transferList_handshake_eightBit {c : Config} (hwidth : c.width = .eightBit) (f : Byte) :
    transferList (traceOf (handshake c f)) =
      [(8, c.codes.kFunction ||| f), (8, c.codes.kFunction ||| f), (8, c.codes.kFunction ||| f)] := by
  have hsend : transferList (traceOf (sendFunctionSet c f)) = [(8, c.codes.kFunction ||| f)] := by
    rw [sendFunctionSet, transferList_send, transfersOf, hwidth]
  have hwait (n : Nat) : transferList (traceOf [.wait n]) = [] := rfl
  unfold handshake
  simp only [hwidth, transferList_traceOf_append, hsend, hwait]
  rfl

theorem sendList_beginOps (c : Config) (columns lines : Byte) (dots5x10 : Bool) :
    sendList (traceOf (beginOps c columns lines dots5x10)) =
      sendsOf c (Regs.afterReset c) (.begin columns lines dots5x10) :=
  sendList_opsOf c (Regs.afterReset c) (.begin columns lines dots5x10)

/-- Settles O26: the send list is that of the operation's sends, the transfer list that of the handshake and the sends. -/
theorem beginTraffic : Obligations.BeginTraffic := by
  rintro c columns lines dots5x10 f ⟨-, hcodes⟩ rfl
  rw [sendList_beginOps, transferList_beginOps]
  refine ⟨fun hwidth => ⟨?_, ?_⟩, fun hwidth => ⟨?_, ?_⟩⟩
  · simp only [sendsOf, hwidth, hcodes]
    rfl
  · rw [transferList_handshake_fourBit hcodes hwidth]
    simp only [transfersOf, hwidth, hcodes]
    rfl
  · simp only [sendsOf, hwidth, hcodes]
    rfl
  · rw [transferList_handshake_eightBit hwidth]
    simp only [transfersOf, hwidth, hcodes]
    rfl

end Sys2Proof.Machine
end

section
/-! PROOFS for 41_begin.md R109: what a register read sees while a `BEGIN` runs. Its pending list writes two registers, and what
stands before, between and after the two writes changes none. -/

namespace Sys2Proof.Machine

/-! ### Lists that write no register -/

/-- No micro-operation of the list changes a register. -/
def WritesNone (ops : List MicroOp) : Prop := ∀ op ∈ ops, ∀ r, op.onRegs r = r

namespace WritesNone

variable {xs ys : List MicroOp}

theorem append (hx : WritesNone xs) (hy : WritesNone ys) : WritesNone (xs ++ ys) :=
  List.forall_mem_append.mpr ⟨hx, hy⟩

theorem take (hx : WritesNone xs) (k : Nat) : WritesNone (xs.take k) :=
  fun op hop => hx op (List.mem_of_mem_take hop)

theorem foldl (hx : WritesNone xs) (r : Regs) : xs.foldl (fun r op => op.onRegs r) r = r := by
  induction xs with
  | nil => rfl
  | cons op xs ih =>
    obtain ⟨hop, hxs⟩ := List.forall_mem_cons.mp hx
    rw [List.foldl_cons, hop r, ih hxs]

theorem wait (n : Nat) : WritesNone [.wait n] := by
  simp [WritesNone]

theorem writeBits (c : Config) (v : Byte) (n : Nat) : WritesNone (writeBits c v n) := by
  simp [WritesNone, Machine.writeBits, MicroOp.onRegs]

theorem rwLow (c : Config) : WritesNone (rwLow c) := by
  unfold Machine.rwLow
  split <;> simp [WritesNone, MicroOp.onRegs]

theorem send (c : Config) (v : Byte) (mode : SendMode) : WritesNone (send c v mode) := by
  have hopen : WritesNone [.setPin .rs mode.level] := by simp [WritesNone, MicroOp.onRegs]
  refine (hopen.append (rwLow c)).append ?_
  unfold transfers
  cases c.width with
  | eightBit => exact writeBits c v 8
  | fourBit => exact (writeBits c _ 4).append (writeBits c v 4)

theorem startingPoint (c : Config) : WritesNone (startingPoint c) := by
  refine append ?_ (rwLow c)
  simp [WritesNone, MicroOp.onRegs]

theorem handshake (c : Config) (f : Byte) : WritesNone (handshake c f) := by
  unfold Machine.handshake sendFunctionSet
  cases c.width with
  | fourBit =>
    exact ((((((writeBits c _ 4).append (wait _)).append (writeBits c _ 4)).append (wait _)).append
      (writeBits c _ 4)).append (wait _)).append (writeBits c _ 4)
  | eightBit => exact ((((send c _ _).append (wait _)).append (send c _ _)).append (wait _)).append (send c _ _)

/-- The registers after the first `k` micro-operations of a list with one write behind a part that writes none. -/
theorem foldl_take_append_writeCsr (hx : WritesNone xs) (reg : Csr) (v : Byte) (k : Nat) (r : Regs) :
    ((xs ++ .writeCsr reg v :: ys).take k).foldl (fun r op => op.onRegs r) r =
      if k ≤ xs.length then r
      else (ys.take (k - (xs.length + 1))).foldl (fun r op => op.onRegs r) (r.write reg v) := by
  rw [List.take_append, List.foldl_append, (hx.take k).foldl]
  split
  next hk => rw [Nat.sub_eq_zero_of_le hk]; rfl
  next hk =>
    obtain ⟨j, hj⟩ := Nat.exists_eq_add_of_lt (Nat.not_le.mp hk)
    rw [show k - xs.length = j + 1 by omega, show k - (xs.length + 1) = j by omega, List.take_succ_cons]
    rfl

end WritesNone

/-! ### The two register writes of a pending `BEGIN` -/

/-- Steps 3 to 6 of R100: all before the write of the display-control flags. -/
def beginBeforeDisplay (c : Config) (f : Byte) : List MicroOp :=
  [.wait c.timing.tPowerOn] ++ startingPoint c ++ handshake c f ++ sendFunctionSet c f

/-- The sends of steps 7 and 8: all between the two writes. -/
def beginBetweenWrites (c : Config) : List MicroOp :=
  send c (c.codes.kDisplayCtrl ||| c.codes.dcDisplay) .command ++ send c c.codes.kClear .command ++
    [.wait c.timing.tClearHome]

theorem beginWaitAndTraffic_eq_writes (c : Config) (f : Byte) :
    beginWaitAndTraffic c f =
      beginBeforeDisplay c f ++ .writeCsr .displayControlFlags c.codes.dcDisplay ::
        (beginBetweenWrites c ++ .writeCsr .entryModeFlags c.codes.eLeft ::
          send c (c.codes.kEntryMode ||| c.codes.eLeft) .command) := by
  simp [beginWaitAndTraffic, beginDefaults, beginBeforeDisplay, beginBetweenWrites]

theorem writesNone_beginBeforeDisplay (c : Config) (f : Byte) : WritesNone (beginBeforeDisplay c f) :=
  (((WritesNone.wait _).append (.startingPoint c)).append (.handshake c f)).append (.send c _ _)

theorem writesNone_beginBetweenWrites (c : Config) : WritesNone (beginBetweenWrites c) :=
  ((WritesNone.send c _ _).append (.send c _ _)).append (.wait _)

/-- The place of the write of the display-control flags. -/
def displayWritePlace (c : Config) (f : Byte) : Nat := (beginBeforeDisplay c f).length

/-- The place of the write of the entry-mode flags. -/
def entryWritePlace (c : Config) (f : Byte) : Nat := displayWritePlace c f + 1 + (beginBetweenWrites c).length

theorem displayWritePlace_lt_entryWritePlace (c : Config) (f : Byte) : displayWritePlace c f < entryWritePlace c f := by
  unfold entryWritePlace
  omega

/-- The registers after `k` steps of the pending list. -/
theorem foldl_onRegs_take_beginWaitAndTraffic (c : Config) (f : Byte) (k : Nat) (r : Regs) :
    ((beginWaitAndTraffic c f).take k).foldl (fun r op => op.onRegs r) r =
      { r with
        displayControlFlags := if k ≤ displayWritePlace c f then r.displayControlFlags else c.codes.dcDisplay
        entryModeFlags := if k ≤ entryWritePlace c f then r.entryModeFlags else c.codes.eLeft } := by
  rw [beginWaitAndTraffic_eq_writes, (writesNone_beginBeforeDisplay c f).foldl_take_append_writeCsr,
    (writesNone_beginBetweenWrites c).foldl_take_append_writeCsr, ((WritesNone.send c _ _).take _).foldl,
    ← displayWritePlace]
  by_cases hp : k ≤ displayWritePlace c f
  · simp [hp, hp.trans (displayWritePlace_lt_entryWritePlace c f).le]
  · have hq : k - (displayWritePlace c f + 1) ≤ (beginBetweenWrites c).length ↔ k ≤ entryWritePlace c f := by
      unfold entryWritePlace
      omega
    simp only [hp, if_false, hq]
    split <;> rfl

/-! ### Register reads (R109, V-B7) -/

/-- What stands at the first place, and what follows it. -/
theorem beginWaitAndTraffic_at_displayWrite (c : Config) (f : Byte) :
    (beginWaitAndTraffic c f)[displayWritePlace c f]? = some (.writeCsr .displayControlFlags c.codes.dcDisplay) ∧
      send c (c.codes.kDisplayCtrl ||| c.codes.dcDisplay) .command <+:
        (beginWaitAndTraffic c f).drop (displayWritePlace c f + 1) := by
  rw [beginWaitAndTraffic_eq_writes, displayWritePlace]
  refine ⟨by simp, ?_⟩
  rw [← List.drop_drop, List.drop_left]
  simp [beginBetweenWrites]

theorem beginWaitAndTraffic_at_entryWrite (c : Config) (f : Byte) :
    (beginWaitAndTraffic c f)[entryWritePlace c f]? = some (.writeCsr .entryModeFlags c.codes.eLeft) ∧
      (beginWaitAndTraffic c f).drop (entryWritePlace c f + 1) =
        send c (c.codes.kEntryMode ||| c.codes.eLeft) .command := by
  have hdrop : (beginWaitAndTraffic c f).drop (entryWritePlace c f) =
      .writeCsr .entryModeFlags c.codes.eLeft :: send c (c.codes.kEntryMode ||| c.codes.eLeft) .command := by
    rw [beginWaitAndTraffic_eq_writes, entryWritePlace, displayWritePlace, ← List.drop_drop, ← List.drop_drop,
      List.drop_left, List.drop_succ_cons, List.drop_zero, List.drop_left]
  rw [← List.drop_drop, ← List.head?_drop, hdrop]
  exact ⟨rfl, rfl⟩

/-- The registers of a block that has just accepted a `BEGIN`. -/
theorem accepted_begin_regs (s : State) (columns lines : Byte) (dots5x10 : Bool) :
    (s.accepted (.begin columns lines dots5x10)).regs =
      { beginRegs s.cfg columns lines dots5x10 with
        displayControlFlags := s.regs.displayControlFlags
        entryModeFlags := s.regs.entryModeFlags } :=
  (State.performAll_regs _ s).trans (foldl_onRegs_beginRegisterWrites s.cfg columns lines dots5x10 s.regs)

/-- The block `k` steps after it has accepted a `BEGIN`: only the two flag registers have changed since. -/
theorem core_run_accepted_begin {s : State} {columns lines : Byte} {dots5x10 : Bool} {f : Byte} {k : Nat}
    (hf : f = functionFlagsFor s.cfg lines dots5x10) (hready : s.cmdReady = true) (hscript : s.resetScript = [])
    (hk : k ≤ (beginWaitAndTraffic s.cfg f).length) :
    ∃ u : State, Sys2Proof.core.run k (s.accepted (.begin columns lines dots5x10)) = .next u ∧
      u.regs =
        { beginRegs s.cfg columns lines dots5x10 with
          displayControlFlags :=
            if k ≤ displayWritePlace s.cfg f then s.regs.displayControlFlags else s.cfg.codes.dcDisplay
          entryModeFlags := if k ≤ entryWritePlace s.cfg f then s.regs.entryModeFlags else s.cfg.codes.eLeft } ∧
      u.pending = (beginWaitAndTraffic s.cfg f).drop k := by
  subst hf
  obtain ⟨hrst, -⟩ := s.cmdReady_iff.mp hready
  have hsame := sameButOperation_accepted s (.begin columns lines dots5x10)
  refine ⟨_, core_run_pending (hsame.rst.trans hrst) (hsame.resetScript.trans hscript) hk, ?_,
    State.performAll_pending _ _⟩
  rw [State.performAll_regs, accepted_begin_regs]
  exact foldl_onRegs_take_beginWaitAndTraffic _ _ _ _

/-- Settles O27: after `k` steps the registers are those of the first `k` pending micro-operations, whose only writes stand
at the two places. -/
theorem beginRegisterReads : Obligations.BeginRegisterReads := by
  intro s t columns lines dots5x10 hready hscript hranges hexec
  have hwf : (Instr.begin columns lines dots5x10).wellFormed = true := hranges
  obtain rfl := Host.Outcome.next.inj ((exec_wellFormed_ready hwf hready).symm.trans hexec)
  obtain ⟨f, hf⟩ : ∃ f, f = functionFlagsFor s.cfg lines dots5x10 := ⟨_, rfl⟩
  have hpending : (s.accepted (.begin columns lines dots5x10)).pending = beginWaitAndTraffic s.cfg f := by
    rw [hf]
    rfl
  rw [hpending]
  obtain ⟨hdisplay, hdisplaySend⟩ := beginWaitAndTraffic_at_displayWrite s.cfg f
  obtain ⟨hentry, hentrySend⟩ := beginWaitAndTraffic_at_entryWrite s.cfg f
  refine ⟨displayWritePlace s.cfg f, entryWritePlace s.cfg f, displayWritePlace_lt_entryWritePlace s.cfg f, hdisplay,
    hdisplaySend, hentry, hentrySend, fun k hk => ?_⟩
  obtain ⟨u, hrun, hregs, hleft⟩ := core_run_accepted_begin (columns := columns) hf hready hscript hk
  obtain ⟨h0, h1, h2, h3, h4, h5, h6, h7, h8, -⟩ := registerPortMap u
  refine ⟨u, hrun, ?_⟩
  rw [h0, h1, h2, h3, h4, h5, h6, h7, h8, hregs]
  refine ⟨rfl, rfl, rfl, rfl, rfl, rfl, rfl, rfl, decide_eq_decide.mpr ?_⟩
  rw [hleft, ne_eq, List.drop_eq_nil_iff, Nat.not_le]

end Sys2Proof.Machine
end
